-- ==== Sys2Proof/Word.lean ====
section
/-! DEFINITION. The Word of the FDE core and the index of a register (00_scope.md R10, 30_encoding.md R79). -/

namespace Sys2Proof

/-- A Word: 32 bits (R10). `BitVec.toInt` is the two's-complement value the spec's rules compute with,
`BitVec.toNat` is the spec's `bits32`. -/
abbrev Word := BitVec 32

/-- A register index: a 4-bit unsigned field, every value of which is a register (R79, R21). -/
abbrev RegIdx := Fin 16

end Sys2Proof
end

