-- ==== Sys2Proof/Config.lean ====
section
/-! DEFINITION. What an implementation of the FDE core fixes (00_scope.md R8): the OPEN parameters as named arguments
of the model, and the values the model picks for reset. The spec leaves no result of an instruction undefined, so
there is no free value here. -/

namespace Sys2Proof.Config

/-- MEMLEN: the memory has word indices 0 to 99 (R8, R36, R50). -/
abbrev memLen : Nat := 100

/-- DESIGN CHOICE (log 2, unsafe): what every register holds at reset in `State.reset`. The spec's INIT_REGS is any
16 Words (R20, R40), which `State.construct` takes as an argument. -/
def initialRegister : Word := 0

/-- DESIGN CHOICE (log 3, unsafe): what a memory word that nothing has written reads as. The spec's INIT_MEM is any 100
Words (R36, R40), which `State.construct` takes as an argument. -/
def unlistedWord : Word := 0

/-- The opcode numbers that the source gives (R8): LDI, LD, ST, ADD, SUB, AND, OR, NOT, HALT. -/
def fixedOpcodes : List Nat := [1, 2, 4, 8, 9, 10, 11, 12, 29]

/-- The OPEN opcode numbers OP_BR and OP_BRZ (R8, D1, D2, log 6): distinct 5-bit values, neither of them fixed. -/
structure BranchOpcodes where
  opBr : BitVec 5
  opBrz : BitVec 5
  valid : opBr ≠ opBrz ∧ opBr.toNat ∉ fixedOpcodes ∧ opBrz.toNat ∉ fixedOpcodes
deriving DecidableEq, Repr

/-- The OPEN places SW_Z, SW_N, SW_C, SW_V of the flags in the StatusWord (R8, D3, log 7): a permutation of 31, 30, 29,
28. -/
structure FlagLayout where
  swZ : Nat
  swN : Nat
  swC : Nat
  swV : Nat
  valid : [swZ, swN, swC, swV].Nodup ∧ ∀ k ∈ [swZ, swN, swC, swV], 28 ≤ k ∧ k ≤ 31
deriving DecidableEq, Repr

/-- The OPEN parameters of the machine but for INIT_REGS and INIT_MEM (R8). Their defaults are in
Sys2Proof/Machine/Params.lean. -/
structure Params where
  opcodes : BranchOpcodes
  flagLayout : FlagLayout
deriving DecidableEq, Repr

end Sys2Proof.Config
end

