-- ==== Sys2Proof/Machine/Params.lean ====
section
/-! DEFINITION. The defaults of the OPEN parameters (00_scope.md R8). Only `State.reset` and `decodeTableWord` use
them: everything else takes the parameters as an argument. -/

namespace Sys2Proof.Config

/-- DESIGN CHOICE of the spec (D1, D2, log 6, unsafe): the rows where spec/opcode_table.json lists BR and BRZ. -/
def defaultBranchOpcodes : BranchOpcodes := { opBr := 16#5, opBrz := 17#5, valid := by decide }

/-- DESIGN CHOICE of the spec (D3, log 7, unsafe): the order in which the source lists the flags, from the top. -/
def defaultFlagLayout : FlagLayout := { swZ := 31, swN := 30, swC := 29, swV := 28, valid := by decide }

/-- The parameters of the machine that `State.reset` constructs. -/
def defaultParams : Params := { opcodes := defaultBranchOpcodes, flagLayout := defaultFlagLayout }

end Sys2Proof.Config
end

