-- ==== Sys2Proof/Syntax.lean ====
section
/-! DEFINITION. The instructions of the FDE core: one constructor per opcode value, as 30_encoding.md R81 and
spec/opcode_table.json list them. Bits that a format does not assign or that an instruction does not read are
ignored (R80), so no constructor holds them. -/

namespace Sys2Proof

/-- The 32 rows of the opcode map (R81), each with its opcode under the default parameters. Under other values of OP_BR
and OP_BRZ the rows of BR and BRZ and the unassigned rows in their places move (log 6). An immediate is the
sign-extended integer that Decode gives (R78). -/
inductive Instr where
  /-- Opcode 0, unassigned: a no-operation (R173). -/
  | nopOp0
  /-- Opcode 1: LDI (R150). -/
  | ldi (dr : RegIdx) (imm : Int)
  /-- Opcode 2: LD (R151). -/
  | ld (dr sr1 : RegIdx) (imm : Int)
  /-- Opcode 3, unassigned: a no-operation (R173). -/
  | nopOp3
  /-- Opcode 4: ST (R152): `dr` names the register that is stored. -/
  | st (dr sr1 : RegIdx) (imm : Int)
  /-- Opcode 5, unassigned: a no-operation (R173). -/
  | nopOp5
  /-- Opcode 6, unassigned: a no-operation (R173). -/
  | nopOp6
  /-- Opcode 7, unassigned: a no-operation (R173). -/
  | nopOp7
  /-- Opcode 8: ADD (R160). -/
  | add (dr sr1 sr2 : RegIdx)
  /-- Opcode 9: SUB (R161). -/
  | sub (dr sr1 sr2 : RegIdx)
  /-- Opcode 10: AND (R162). -/
  | and (dr sr1 sr2 : RegIdx)
  /-- Opcode 11: OR (R163). -/
  | or (dr sr1 sr2 : RegIdx)
  /-- Opcode 12: NOT (R164). -/
  | not (dr sr1 : RegIdx)
  /-- Opcode 13, unassigned: a no-operation (R173). -/
  | nopOp13
  /-- Opcode 14, unassigned: a no-operation (R173). -/
  | nopOp14
  /-- Opcode 15, unassigned: a no-operation (R173). -/
  | nopOp15
  /-- Opcode 16: BR (R170). -/
  | br (imm : Int)
  /-- Opcode 17: BRZ (R171). -/
  | brz (imm : Int)
  /-- Opcode 18, unassigned: a no-operation (R173). -/
  | nopOp18
  /-- Opcode 19, unassigned: a no-operation (R173). -/
  | nopOp19
  /-- Opcode 20, unassigned: a no-operation (R173). -/
  | nopOp20
  /-- Opcode 21, unassigned: a no-operation (R173). -/
  | nopOp21
  /-- Opcode 22, unassigned: a no-operation (R173). -/
  | nopOp22
  /-- Opcode 23, unassigned: a no-operation (R173). -/
  | nopOp23
  /-- Opcode 24, unassigned: a no-operation (R173). -/
  | nopOp24
  /-- Opcode 25, unassigned: a no-operation (R173). -/
  | nopOp25
  /-- Opcode 26, unassigned: a no-operation (R173). -/
  | nopOp26
  /-- Opcode 27, unassigned: a no-operation (R173). -/
  | nopOp27
  /-- Opcode 28, unassigned: a no-operation (R173). -/
  | nopOp28
  /-- Opcode 29: HALT (R172). -/
  | halt
  /-- Opcode 30, unassigned: a no-operation (R173). -/
  | nopOp30
  /-- Opcode 31, unassigned: a no-operation (R173). -/
  | nopOp31
deriving DecidableEq, Repr

end Sys2Proof
end

