-- ==== Sys2Proof/WellFormed.lean ====
section
/-! DEFINITION. Which instruction terms have an encoding: an immediate fits its field (30_encoding.md R73 to R76).
Register operands are well formed by their type (R79). -/

namespace Sys2Proof

/-- `v` is in the range of an n-bit two's-complement field: -2^(n-1) to 2^(n-1) - 1 (R85, R100). -/
def fitsSigned (n : Nat) (v : Int) : Bool :=
  decide (-2 ^ (n - 1) ≤ v) && decide (v < 2 ^ (n - 1))

/-- IMM1W, IMM2W, IMM4W: the immediate widths of Formats 1, 2 and 4 (R8). -/
def Instr.wellFormed : Instr → Bool
  | .ldi _ imm => fitsSigned 23 imm
  | .ld _ _ imm => fitsSigned 19 imm
  | .st _ _ imm => fitsSigned 19 imm
  | .br imm => fitsSigned 27 imm
  | .brz imm => fitsSigned 27 imm
  | .add _ _ _ => true
  | .sub _ _ _ => true
  | .and _ _ _ => true
  | .or _ _ _ => true
  | .not _ _ => true
  | .halt => true
  | .nopOp0 => true
  | .nopOp3 => true
  | .nopOp5 => true
  | .nopOp6 => true
  | .nopOp7 => true
  | .nopOp13 => true
  | .nopOp14 => true
  | .nopOp15 => true
  | .nopOp18 => true
  | .nopOp19 => true
  | .nopOp20 => true
  | .nopOp21 => true
  | .nopOp22 => true
  | .nopOp23 => true
  | .nopOp24 => true
  | .nopOp25 => true
  | .nopOp26 => true
  | .nopOp27 => true
  | .nopOp28 => true
  | .nopOp30 => true
  | .nopOp31 => true

end Sys2Proof
end

