-- ==== Sys2Proof/Decode.lean ====
section
/-! DEFINITION. Decode and its inverse (30_encoding.md R70 to R86): the fields of an instruction Word, the dispatch on
the opcode, and the encoder. Decode is total: no pattern is illegal (R77, R82). The field layout is the table's, not
that of the source's one example (C1, log 21). -/

namespace Sys2Proof

/-- `sext_n` (R100), as its formula is written: the low n-1 bits, less 2^(n-1) when the leading bit is 1. -/
def sext {n : Nat} (f : BitVec n) : Int :=
  if f.msb then ((f.toNat % 2 ^ (n - 1) : Nat) : Int) - ((2 ^ (n - 1) : Nat) : Int)
  else ((f.toNat % 2 ^ (n - 1) : Nat) : Int)

/-- The layout of an instruction's fields (R72). -/
inductive Format where
  | f1
  | f2
  | f3
  | f4
deriving DecidableEq, Repr

/-- The decoded-instruction record (10_state.md R35). A field that the format does not define is absent (U10). -/
structure Decoded where
  opcode : BitVec 5
  format : Format
  dr : Option RegIdx
  sr1 : Option RegIdx
  sr2 : Option RegIdx
  immed : Option Int
deriving DecidableEq, Repr

/-- `w[31:27]` (R71). -/
def opcodeField (w : Word) : BitVec 5 := w.extractLsb' 27 5

/-- `w[26:23]` (R73 to R75). -/
def drField (w : Word) : RegIdx := (w.extractLsb' 23 4).toFin

/-- `w[22:19]` (R74, R75). -/
def sr1Field (w : Word) : RegIdx := (w.extractLsb' 19 4).toFin

/-- `w[18:15]` (R75). -/
def sr2Field (w : Word) : RegIdx := (w.extractLsb' 15 4).toFin

/-- The n-bit immediate at the low end of the word, sign-extended (R78). -/
def immField (n : Nat) (w : Word) : Int := sext (w.extractLsb' 0 n)

/-- The format the opcode selects (R72): BR, BRZ, HALT and every unassigned opcode have Format 4. -/
def formatOf (opcode : BitVec 5) : Format :=
  match opcode.toNat with
  | 1 => .f1
  | 2 => .f2
  | 4 => .f2
  | 12 => .f2
  | 8 => .f3
  | 9 => .f3
  | 10 => .f3
  | 11 => .f3
  | _ => .f4

/-- `decode(raw)` (R77). -/
def decodeFields (w : Word) : Decoded :=
  match formatOf (opcodeField w) with
  | .f1 =>
    { opcode := opcodeField w, format := .f1, dr := some (drField w), sr1 := none, sr2 := none,
      immed := some (immField 23 w) }
  | .f2 =>
    { opcode := opcodeField w, format := .f2, dr := some (drField w), sr1 := some (sr1Field w), sr2 := none,
      immed := some (immField 19 w) }
  | .f3 =>
    { opcode := opcodeField w, format := .f3, dr := some (drField w), sr1 := some (sr1Field w),
      sr2 := some (sr2Field w), immed := none }
  | .f4 =>
    { opcode := opcodeField w, format := .f4, dr := none, sr1 := none, sr2 := none, immed := some (immField 27 w) }

/-- An instruction that reads dr and immed. -/
def Decoded.withDrImm (d : Decoded) (f : RegIdx → Int → Instr) : Option Instr :=
  match d.dr, d.immed with
  | some dr, some imm => some (f dr imm)
  | _, _ => none

/-- An instruction that reads dr, sr1 and immed. -/
def Decoded.withDrSr1Imm (d : Decoded) (f : RegIdx → RegIdx → Int → Instr) : Option Instr :=
  match d.dr, d.sr1, d.immed with
  | some dr, some sr1, some imm => some (f dr sr1 imm)
  | _, _, _ => none

/-- An instruction that reads dr, sr1 and sr2. -/
def Decoded.withDrSr1Sr2 (d : Decoded) (f : RegIdx → RegIdx → RegIdx → Instr) : Option Instr :=
  match d.dr, d.sr1, d.sr2 with
  | some dr, some sr1, some sr2 => some (f dr sr1 sr2)
  | _, _, _ => none

/-- An instruction that reads dr and sr1 only: NOT, whose immed is decoded and not read (R74, R80). -/
def Decoded.withDrSr1 (d : Decoded) (f : RegIdx → RegIdx → Instr) : Option Instr :=
  match d.dr, d.sr1 with
  | some dr, some sr1 => some (f dr sr1)
  | _, _ => none

/-- An instruction that reads immed only. -/
def Decoded.withImm (d : Decoded) (f : Int → Instr) : Option Instr :=
  match d.immed with
  | some imm => some (f imm)
  | none => none

/-- Exchanges the opcodes `a` and `b`. -/
def swapOpcodes (a b k : BitVec 5) : BitVec 5 := if k = a then b else if k = b then a else k

/-- The opcode of a row of the map (R81). A row is numbered by its opcode under the defaults. Row 16, BR, stands at
OP_BR and row 17, BRZ, at OP_BRZ. The unassigned rows that stood there take the numbers that the two rows left, and
every other row keeps its number (log 6). -/
def opcodeOfRow (ops : Config.BranchOpcodes) (row : BitVec 5) : BitVec 5 :=
  swapOpcodes 16#5 ops.opBr (swapOpcodes 17#5 (swapOpcodes 16#5 ops.opBr ops.opBrz) row)

/-- The row of the map that an opcode selects: the inverse of `opcodeOfRow`. -/
def rowOfOpcode (ops : Config.BranchOpcodes) (opcode : BitVec 5) : BitVec 5 :=
  swapOpcodes 17#5 (swapOpcodes 16#5 ops.opBr ops.opBrz) (swapOpcodes 16#5 ops.opBr opcode)

/-- The instruction of a row of the map with the fields of the record. It answers `none` only where an instruction reads
a field that the record lacks (U10). -/
def Decoded.ofRow (d : Decoded) (row : BitVec 5) : Option Instr :=
  match row.toNat with
  | 0 => some .nopOp0
  | 1 => d.withDrImm .ldi
  | 2 => d.withDrSr1Imm .ld
  | 3 => some .nopOp3
  | 4 => d.withDrSr1Imm .st
  | 5 => some .nopOp5
  | 6 => some .nopOp6
  | 7 => some .nopOp7
  | 8 => d.withDrSr1Sr2 .add
  | 9 => d.withDrSr1Sr2 .sub
  | 10 => d.withDrSr1Sr2 .and
  | 11 => d.withDrSr1Sr2 .or
  | 12 => d.withDrSr1 .not
  | 13 => some .nopOp13
  | 14 => some .nopOp14
  | 15 => some .nopOp15
  | 16 => d.withImm .br
  | 17 => d.withImm .brz
  | 18 => some .nopOp18
  | 19 => some .nopOp19
  | 20 => some .nopOp20
  | 21 => some .nopOp21
  | 22 => some .nopOp22
  | 23 => some .nopOp23
  | 24 => some .nopOp24
  | 25 => some .nopOp25
  | 26 => some .nopOp26
  | 27 => some .nopOp27
  | 28 => some .nopOp28
  | 29 => some .halt
  | 30 => some .nopOp30
  | 31 => some .nopOp31
  | _ => none

/-- The dispatch on DEC.opcode (41_instruction_cycle_fsm.md R127, over the map of R81), never `none` on a record that
`decodeFields` gives. -/
def Decoded.toInstr (d : Decoded) (ops : Config.BranchOpcodes) : Option Instr := d.ofRow (rowOfOpcode ops d.opcode)

/-- The instruction a Word stands for: Decode, then Execute's dispatch (R77, R127). -/
def decode (ops : Config.BranchOpcodes) (w : Word) : Option Instr := (decodeFields w).toInstr ops

/-- The row of each instruction in the map (R81), numbered by its opcode under the defaults. -/
def Instr.row : Instr → BitVec 5
  | .nopOp0 => 0#5
  | .ldi _ _ => 1#5
  | .ld _ _ _ => 2#5
  | .nopOp3 => 3#5
  | .st _ _ _ => 4#5
  | .nopOp5 => 5#5
  | .nopOp6 => 6#5
  | .nopOp7 => 7#5
  | .add _ _ _ => 8#5
  | .sub _ _ _ => 9#5
  | .and _ _ _ => 10#5
  | .or _ _ _ => 11#5
  | .not _ _ => 12#5
  | .nopOp13 => 13#5
  | .nopOp14 => 14#5
  | .nopOp15 => 15#5
  | .br _ => 16#5
  | .brz _ => 17#5
  | .nopOp18 => 18#5
  | .nopOp19 => 19#5
  | .nopOp20 => 20#5
  | .nopOp21 => 21#5
  | .nopOp22 => 22#5
  | .nopOp23 => 23#5
  | .nopOp24 => 24#5
  | .nopOp25 => 25#5
  | .nopOp26 => 26#5
  | .nopOp27 => 27#5
  | .nopOp28 => 28#5
  | .halt => 29#5
  | .nopOp30 => 30#5
  | .nopOp31 => 31#5

/-- The opcode of an instruction (R81). -/
def Instr.opcode (i : Instr) (ops : Config.BranchOpcodes) : BitVec 5 := opcodeOfRow ops i.row

/-- A register index as its 4-bit field (R79). -/
def regBits (r : RegIdx) : BitVec 4 := BitVec.ofFin r

/-- The 27 bits below the opcode, ignored bits zero (R85). `BitVec.ofInt n` is the spec's `fld_n`. -/
def Instr.operandBits : Instr → BitVec 27
  | .ldi dr imm => regBits dr ++ BitVec.ofInt 23 imm
  | .ld dr sr1 imm => regBits dr ++ regBits sr1 ++ BitVec.ofInt 19 imm
  | .st dr sr1 imm => regBits dr ++ regBits sr1 ++ BitVec.ofInt 19 imm
  | .add dr sr1 sr2 => regBits dr ++ regBits sr1 ++ regBits sr2 ++ 0#15
  | .sub dr sr1 sr2 => regBits dr ++ regBits sr1 ++ regBits sr2 ++ 0#15
  | .and dr sr1 sr2 => regBits dr ++ regBits sr1 ++ regBits sr2 ++ 0#15
  | .or dr sr1 sr2 => regBits dr ++ regBits sr1 ++ regBits sr2 ++ 0#15
  | .not dr sr1 => regBits dr ++ regBits sr1 ++ 0#19
  | .br imm => BitVec.ofInt 27 imm
  | .brz imm => BitVec.ofInt 27 imm
  | .halt => 0#27
  | .nopOp0 => 0#27
  | .nopOp3 => 0#27
  | .nopOp5 => 0#27
  | .nopOp6 => 0#27
  | .nopOp7 => 0#27
  | .nopOp13 => 0#27
  | .nopOp14 => 0#27
  | .nopOp15 => 0#27
  | .nopOp18 => 0#27
  | .nopOp19 => 0#27
  | .nopOp20 => 0#27
  | .nopOp21 => 0#27
  | .nopOp22 => 0#27
  | .nopOp23 => 0#27
  | .nopOp24 => 0#27
  | .nopOp25 => 0#27
  | .nopOp26 => 0#27
  | .nopOp27 => 0#27
  | .nopOp28 => 0#27
  | .nopOp30 => 0#27
  | .nopOp31 => 0#27

/-- The encoder (R85): the one Word of an instruction. -/
def encode (ops : Config.BranchOpcodes) (i : Instr) : Word := i.opcode ops ++ i.operandBits

/-- The instruction whose bits are `w`: one 32-bit word, as every row of the opcode table is (R70, R81), at the opcode
numbers of the table. -/
def decodeTableWord (nbits w : Nat) : Option Instr :=
  if nbits ≤ 32 then decode Config.defaultBranchOpcodes (BitVec.ofNat 32 (w % 2 ^ nbits)) else none

end Sys2Proof
end

