-- ==== Sys2Proof/Machine/State.lean ====
section
/-! DEFINITION. The state of the FDE core (10_state.md), the reasons a step can stop, and reset (R40, R180). -/

namespace Sys2Proof.Machine

/-- The top-level phase of the instruction cycle (R33). -/
inductive Macrostate where
  | fetch
  | decode
  | execute
  | halt
deriving DecidableEq, Repr

/-- The sub-step of Fetch (R34). -/
inductive Microstate where
  | m0
  | m1
  | m2
  | m3
  | exit
deriving DecidableEq, Repr

/-- One memory cell that differs from what an unlisted index reads as: a word index and its Word. The memory has no
bytes: it is 100 Words (20_memory.md R50, R51; log 1). -/
abbrev Cell := Nat × Word

/-- The memory in one canonical form: indices strictly rising, none of 100 or more, no cell equal to
`Config.unlistedWord` (R36, R50; log 1, log 3). `Memory.wf` in Machine/Ops.lean says so. -/
abbrev Memory := List Cell

/-- Every piece of state the spec names (10_state.md R20 to R36, its list complete by R37), and the parameters of the
machine, which no step and no request of the host changes (log 25). -/
structure State where
  /-- RegisterFile: R0 to R15 (R20). -/
  regs : Vector Word 16
  /-- Memory: 100 words, indices 0 to 99 (R36). -/
  mem : Memory
  /-- PC: a word index (R22). -/
  pc : Word
  /-- IR: the word fetched last (R27). -/
  ir : Word
  /-- MAR: the memory address register (R28). -/
  mar : Word
  /-- MDR: the memory data register, which no transition writes (R29). -/
  mdr : Word
  /-- ALU_A: ALU input A, which Fetch loads from PC (R30). -/
  aluA : Word
  /-- ALU_B: ALU input B, which no transition writes (R31). -/
  aluB : Word
  /-- ALU_R: the ALU result, which no transition writes (R32). -/
  aluR : Word
  /-- StatusWord: the flags Z, N, C, V in its top four bits, the rest zero (R25). -/
  sw : Word
  /-- Macrostate (R33). -/
  macrostate : Macrostate
  /-- Microstate (R34). -/
  microstate : Microstate
  /-- DEC: what Decode hands to Execute (R35). -/
  dec : Decoded
  /-- The OPEN parameters of the machine (R8): the model's own field, no state of the spec (R7; log 25). -/
  params : Config.Params
deriving DecidableEq, Repr

/-- Why the machine stops with no defined behaviour. -/
inductive Fault where
  /-- Fetch with PC < 0 (41_instruction_cycle_fsm.md R132, 60_exceptions.md R204, D6). Raised by the guard of Fetch,
  and by Fetch's memory read where an unreachable state puts PC outside the memory (log 20). Safe: the model stops
  where the machine might do anything. -/
  | fetchAddressInvalid
deriving DecidableEq, Repr

/-- What the model does not do. -/
inductive Refusal where
  /-- An instruction without a meaning, named by its mnemonic. No arm of `exec` raises it. Safe. -/
  | notModelled (mnemonic : String)
  /-- A host write requested inside a cycle (50_host_interface.md R181, R182, R188; D10, U8). Raised by `loadProgram`
  and `resetMemory`, never by a step. Safe. -/
  | insideCycle
  /-- A program of more than 100 Words (R181, D10, U8). Raised by `loadProgram`. Safe. -/
  | programTooLong
  /-- Execute would read a field of DEC that its format does not define: a modelling error, not a machine behaviour
  (U10). Raised by `microStep` in states that no run reaches (log 20). Safe. -/
  | undefinedField
deriving DecidableEq, Repr

/-- DESIGN CHOICE (log 4): DEC at reset, which the spec leaves unspecified and calls not observable (R35, R40). -/
def initialDec : Decoded :=
  { opcode := 0#5, format := .f4, dr := none, sr1 := none, sr2 := none, immed := some 0 }

/-- Reset is construction (R180) of the machine with the given parameters (R8) from INIT_REGS and INIT_MEM (R40). SW is 0 by D12 (log 5), Microstate 0 by D7
(log 11). -/
def State.construct (params : Config.Params) (initRegs : Vector Word 16) (initMem : Memory) : State :=
  { regs := initRegs, mem := initMem, pc := 0, ir := 0, mar := 0, mdr := 0, aluA := 0, aluB := 0, aluR := 0, sw := 0,
    macrostate := .fetch, microstate := .m0, dec := initialDec, params := params }

/-- The machine right after reset, with the default parameters and the one INIT_REGS and INIT_MEM that log 2 and log 3
name. -/
def State.reset : State :=
  State.construct Config.defaultParams (Vector.replicate 16 Config.initialRegister) []

end Sys2Proof.Machine
end

