-- ==== Sys2Proof/Machine/Alu.lean ====
section
/-! DEFINITION. The ALU (40_alu_and_flags.md R101 to R106). A wide value is an `Int` (R10). -/

namespace Sys2Proof.Machine

/-- `truncate32` (R101): the Word congruent to a wide value modulo 2^32. -/
def truncate32 (x : Int) : Word := BitVec.ofInt 32 x

/-- `add(a, b)` (R102): the exact sum. -/
def wideAdd (a b : Word) : Int := a.toInt + b.toInt

/-- `sub(a, b)` (R103): the exact difference, `a` the minuend. -/
def wideSub (a b : Word) : Int := a.toInt - b.toInt

/-- `and(a, b)` (R105). -/
def bitAnd (a b : Word) : Word := a &&& b

/-- `or(a, b)` (R105). -/
def bitOr (a b : Word) : Word := a ||| b

/-- `not(a)` (R106): the complement of all 32 bits. -/
def bitNot (a : Word) : Word := a ^^^ 0xFFFFFFFF#32

end Sys2Proof.Machine
end

