-- ==== Sys2Proof/Machine/Flags.lean ====
section
/-! DEFINITION. The status-word generator (40_alu_and_flags.md R107 to R110) and the StatusWord register
(10_state.md R25, R26). -/

namespace Sys2Proof.Machine

/-- The condition codes Zero, Negative, Carryout, Overflow (R25). -/
structure Flags where
  z : Bool
  n : Bool
  c : Bool
  v : Bool
deriving DecidableEq, Repr

/-- The exact result does not fit a signed 32-bit Word: the one condition behind C and V (R107, R109). -/
def outOfRange (x : Int) : Bool := decide (x > 2147483647) || decide (x < -2147483648)

/-- `deriveFlags(x)` (R107), on the wide value, before truncation. For a bitwise result `x` is the signed value of
its pattern (R105, D4, log 9). -/
def deriveFlags (x : Int) : Flags :=
  { z := decide (x = 0), n := decide (x < 0), c := outOfRange x, v := outOfRange x }

/-- One flag at its place in the StatusWord. -/
def flagAt (b : Bool) (k : Nat) : Word := if b then 1#32 <<< k else 0#32

/-- `pack(Z, N, C, V)` (R108), with the flags at SW_Z, SW_N, SW_C and SW_V (R8, D3, log 7). -/
def pack (l : Config.FlagLayout) (f : Flags) : Word :=
  flagAt f.z l.swZ ||| flagAt f.n l.swN ||| flagAt f.c l.swC ||| flagAt f.v l.swV

/-- The flags a StatusWord holds (R25). -/
def unpack (l : Config.FlagLayout) (sw : Word) : Flags :=
  { z := sw.getLsbD l.swZ, n := sw.getLsbD l.swN, c := sw.getLsbD l.swC, v := sw.getLsbD l.swV }

/-- The machine's current flags. -/
def State.flags (s : State) : Flags := unpack s.params.flagLayout s.sw

/-- Writes the whole StatusWord. -/
def State.setSW (s : State) (v : Word) : State := { s with sw := v }

/-- `SW <- pack(deriveFlags(x))` (R108): all four flags are overwritten (D5, log 8). -/
def State.setFlags (s : State) (x : Int) : State := s.setSW (pack s.params.flagLayout (deriveFlags x))

end Sys2Proof.Machine
end

