-- ==== Sys2Proof/Machine/Operands.lean ====
section
/-! DEFINITION. The operand forms: the address of LD and ST with its bound check (42_data_movement.md R153, R154) and
the target of a branch (44_control_transfer.md R170). -/

namespace Sys2Proof.Machine

/-- `0 <= a < 100`, on the signed value of the address (R154, R53). Address 100 is out of bounds (D13, C4, log 16). -/
def inBounds (a : Word) : Bool := decide (0 ≤ a.toInt) && decide (a.toInt < (Config.memLen : Int))

/-- `truncate32(R[sr1] + immed)` (R153). -/
def effectiveAddress (base : Word) (imm : Int) : Word := truncate32 (base.toInt + imm)

/-- `truncate32(PC_adv + immed)` (R170, R171). -/
def branchTarget (pcAdv : Word) (imm : Int) : Word := truncate32 (pcAdv.toInt + imm)

end Sys2Proof.Machine
end

