-- ==== Sys2Proof/Machine/Ops.lean ====
section
/-! DEFINITION. The named operations over registers, memory and the sequencer's state. This hardware has no trap
(60_exceptions.md R203, R207, R208), so no operation takes an exception or returns from one. -/

namespace Sys2Proof.Machine

/-- What an outcome of this machine is. -/
abbrev Result := Host.Outcome State Fault Refusal

/-- Runs `f` on the next state, if there is one. -/
def andThen (r : Result) (f : State → Result) : Result :=
  match r with
  | .next s => f s
  | .fault e => .fault e
  | .refused e => .refused e

/-- The Word at index `i` (R53, R54). -/
def Memory.read : Memory → Nat → Word
  | [], _ => Config.unlistedWord
  | (j, w) :: m, i => if j = i then w else Memory.read m i

/-- Puts a cell at the front, unless it reads as an unlisted one. -/
def Memory.cons (i : Nat) (w : Word) (m : Memory) : Memory :=
  if w = Config.unlistedWord then m else (i, w) :: m

/-- `Mem[i] <- w`, every other word unchanged (R53), in the canonical form. -/
def Memory.write : Memory → Nat → Word → Memory
  | [], i, w => Memory.cons i w []
  | (j, u) :: m, i, w =>
    if i < j then Memory.cons i w ((j, u) :: m)
    else if i = j then Memory.cons i w m
    else (j, u) :: Memory.write m i w

/-- The indices rise strictly from `lo`, stay below 100, and no cell reads as an unlisted one. -/
def Memory.wfFrom : Nat → Memory → Bool
  | _, [] => true
  | lo, (j, w) :: m =>
    decide (lo ≤ j) && decide (j < Config.memLen) && decide (w ≠ Config.unlistedWord) && Memory.wfFrom (j + 1) m

/-- The memory is in its canonical form (log 1). -/
def Memory.wf (m : Memory) : Bool := Memory.wfFrom 0 m

/-- `R[r]` (R11, R20): every register is ordinary storage. -/
def State.reg (s : State) (r : RegIdx) : Word := s.regs[r]

/-- `R[r] <- v` (R11, R20). -/
def State.writeReg (s : State) (r : RegIdx) (v : Word) : State := { s with regs := s.regs.set r v }

/-- The whole memory replaced. -/
def State.setMem (s : State) (m : Memory) : State := { s with mem := m }

/-- `MemRead(a, 1)` (R53): nothing outside 0 to 99. -/
def State.memRead (s : State) (a : Word) : Option Word :=
  if inBounds a then some (s.mem.read a.toNat) else none

/-- `MemWrite(a, 1, v)` (R53): nothing outside 0 to 99. -/
def State.memWrite (s : State) (a v : Word) : Option State :=
  if inBounds a then some (s.setMem (s.mem.write a.toNat v)) else none

/-- `PC <- v`. -/
def State.setPC (s : State) (v : Word) : State := { s with pc := v }

/-- `macro <- m; micro <- k` (R11). -/
def State.goto (s : State) (m : Macrostate) (k : Microstate) : State := { s with macrostate := m, microstate := k }

/-- The end of every Execute but HALT's: `macro <- Fetch; micro <- 0` (R128). -/
def toFetch (s : State) : Result := .next (s.goto .fetch .m0)

/-- The end of HALT's Execute: `macro <- Halt` (R128, R172). -/
def toHalt (s : State) : Result := .next (s.goto .halt .m0)

/-- The flag write and the register write of an ALU instruction, in that order (R130): the flags of the wide value
`x`, its truncation to `dr` (R160, R161). -/
def aluResult (s : State) (dr : RegIdx) (x : Int) : Result :=
  toFetch ((s.setFlags x).writeReg dr (truncate32 x))

/-- The same for a bitwise instruction, whose result is already a Word (R105, R162 to R164). -/
def bitwiseResult (s : State) (dr : RegIdx) (w : Word) : Result :=
  toFetch ((s.setFlags w.toInt).writeReg dr w)

/-- BR, and BRZ taken: `PC <- truncate32(PC + immed)` (R170, R171). -/
def branch (s : State) (imm : Int) : Result := toFetch (s.setPC (branchTarget s.pc imm))

/-- An unrecognized opcode: no state change, next macrostate Fetch (R173). -/
def noOperation (s : State) : Result := toFetch s

/-- The states in which the host observes and acts: Fetch with Microstate 0, or Halt (00_scope.md R12, R136). -/
def State.atBoundary (s : State) : Bool :=
  match s.macrostate with
  | .fetch => decide (s.microstate = .m0)
  | .decode => false
  | .execute => false
  | .halt => true

end Sys2Proof.Machine
end

