-- ==== Sys2Proof/Machine/ArithmeticLogic.lean ====
section
/-! DEFINITION. ADD, SUB, AND, OR, NOT (43_arithmetic_logic.md). -/

namespace Sys2Proof.Machine

/-- ADD (R160). -/
def execAdd (dr sr1 sr2 : RegIdx) (s : State) : Result :=
  aluResult s dr (wideAdd (s.reg sr1) (s.reg sr2))

/-- SUB (R161): the StatusWord is reset to 0 first, which the flag write then covers (D5, log 8). -/
def execSub (dr sr1 sr2 : RegIdx) (s : State) : Result :=
  aluResult (s.setSW 0) dr (wideSub (s.reg sr1) (s.reg sr2))

/-- AND (R162). -/
def execAnd (dr sr1 sr2 : RegIdx) (s : State) : Result :=
  bitwiseResult s dr (bitAnd (s.reg sr1) (s.reg sr2))

/-- OR (R163). -/
def execOr (dr sr1 sr2 : RegIdx) (s : State) : Result :=
  bitwiseResult s dr (bitOr (s.reg sr1) (s.reg sr2))

/-- NOT (R164). -/
def execNot (dr sr1 : RegIdx) (s : State) : Result :=
  bitwiseResult s dr (bitNot (s.reg sr1))

end Sys2Proof.Machine
end

