-- ==== Sys2Proof/Machine/Control.lean ====
section
/-! DEFINITION. BR, BRZ, HALT and the 21 unrecognized opcodes (44_control_transfer.md). PC holds PC_adv on entry. -/

namespace Sys2Proof.Machine

/-- BR (R170). -/
def execBr (imm : Int) (s : State) : Result := branch s imm

/-- BRZ (R171): the branch if Z is set, else nothing. -/
def execBrz (imm : Int) (s : State) : Result :=
  if s.flags.z then branch s imm else toFetch s

/-- HALT (R172): `macro <- Halt`, and PC keeps PC_adv. -/
def execHalt (s : State) : Result := toHalt s

/-- Opcode 0, unassigned (R173). -/
def execNopOp0 (s : State) : Result := noOperation s

/-- Opcode 3, unassigned (R173). -/
def execNopOp3 (s : State) : Result := noOperation s

/-- Opcode 5, unassigned (R173). -/
def execNopOp5 (s : State) : Result := noOperation s

/-- Opcode 6, unassigned (R173). -/
def execNopOp6 (s : State) : Result := noOperation s

/-- Opcode 7, unassigned (R173). -/
def execNopOp7 (s : State) : Result := noOperation s

/-- Opcode 13, unassigned (R173). -/
def execNopOp13 (s : State) : Result := noOperation s

/-- Opcode 14, unassigned (R173). -/
def execNopOp14 (s : State) : Result := noOperation s

/-- Opcode 15, unassigned (R173). -/
def execNopOp15 (s : State) : Result := noOperation s

/-- Opcode 18, unassigned (R173). -/
def execNopOp18 (s : State) : Result := noOperation s

/-- Opcode 19, unassigned (R173). -/
def execNopOp19 (s : State) : Result := noOperation s

/-- Opcode 20, unassigned (R173). -/
def execNopOp20 (s : State) : Result := noOperation s

/-- Opcode 21, unassigned (R173). -/
def execNopOp21 (s : State) : Result := noOperation s

/-- Opcode 22, unassigned (R173). -/
def execNopOp22 (s : State) : Result := noOperation s

/-- Opcode 23, unassigned (R173). -/
def execNopOp23 (s : State) : Result := noOperation s

/-- Opcode 24, unassigned (R173). -/
def execNopOp24 (s : State) : Result := noOperation s

/-- Opcode 25, unassigned (R173). -/
def execNopOp25 (s : State) : Result := noOperation s

/-- Opcode 26, unassigned (R173). -/
def execNopOp26 (s : State) : Result := noOperation s

/-- Opcode 27, unassigned (R173). -/
def execNopOp27 (s : State) : Result := noOperation s

/-- Opcode 28, unassigned (R173). -/
def execNopOp28 (s : State) : Result := noOperation s

/-- Opcode 30, unassigned (R173). -/
def execNopOp30 (s : State) : Result := noOperation s

/-- Opcode 31, unassigned (R173). -/
def execNopOp31 (s : State) : Result := noOperation s

end Sys2Proof.Machine
end

