-- ==== Sys2Proof/Machine/DataMovement.lean ====
section
/-! DEFINITION. LDI, LD, ST (42_data_movement.md). PC already holds PC_adv; the trace status that an out-of-bounds
access reports is in Sys2Proof/Machine/Trace.lean. -/

namespace Sys2Proof.Machine

/-- LDI (R150): `R[dr] <- immed`. -/
def execLdi (dr : RegIdx) (imm : Int) (s : State) : Result :=
  toFetch (s.writeReg dr (truncate32 imm))

/-- LD (R151): the word at the effective address if it is in bounds, else nothing. -/
def execLd (dr sr1 : RegIdx) (imm : Int) (s : State) : Result :=
  match s.memRead (effectiveAddress (s.reg sr1) imm) with
  | some w => toFetch (s.writeReg dr w)
  | none => toFetch s

/-- ST (R152): stores `R[dr]` at the effective address if it is in bounds, else nothing. -/
def execSt (dr sr1 : RegIdx) (imm : Int) (s : State) : Result :=
  match s.memWrite (effectiveAddress (s.reg sr1) imm) (s.reg dr) with
  | some t => toFetch t
  | none => toFetch s

end Sys2Proof.Machine
end

