-- ==== Sys2Proof/Machine/Dispatch.lean ====
section
/-! DEFINITION. The Execute micro-step's dispatch (41_instruction_cycle_fsm.md R127): one arm per opcode. -/

namespace Sys2Proof.Machine

def exec (i : Instr) (s : State) : Host.Outcome State Fault Refusal :=
  match i with
  | .nopOp0 => Sys2Proof.Machine.execNopOp0 s
  | .ldi dr imm => Sys2Proof.Machine.execLdi dr imm s
  | .ld dr sr1 imm => Sys2Proof.Machine.execLd dr sr1 imm s
  | .nopOp3 => Sys2Proof.Machine.execNopOp3 s
  | .st dr sr1 imm => Sys2Proof.Machine.execSt dr sr1 imm s
  | .nopOp5 => Sys2Proof.Machine.execNopOp5 s
  | .nopOp6 => Sys2Proof.Machine.execNopOp6 s
  | .nopOp7 => Sys2Proof.Machine.execNopOp7 s
  | .add dr sr1 sr2 => Sys2Proof.Machine.execAdd dr sr1 sr2 s
  | .sub dr sr1 sr2 => Sys2Proof.Machine.execSub dr sr1 sr2 s
  | .and dr sr1 sr2 => Sys2Proof.Machine.execAnd dr sr1 sr2 s
  | .or dr sr1 sr2 => Sys2Proof.Machine.execOr dr sr1 sr2 s
  | .not dr sr1 => Sys2Proof.Machine.execNot dr sr1 s
  | .nopOp13 => Sys2Proof.Machine.execNopOp13 s
  | .nopOp14 => Sys2Proof.Machine.execNopOp14 s
  | .nopOp15 => Sys2Proof.Machine.execNopOp15 s
  | .br imm => Sys2Proof.Machine.execBr imm s
  | .brz imm => Sys2Proof.Machine.execBrz imm s
  | .nopOp18 => Sys2Proof.Machine.execNopOp18 s
  | .nopOp19 => Sys2Proof.Machine.execNopOp19 s
  | .nopOp20 => Sys2Proof.Machine.execNopOp20 s
  | .nopOp21 => Sys2Proof.Machine.execNopOp21 s
  | .nopOp22 => Sys2Proof.Machine.execNopOp22 s
  | .nopOp23 => Sys2Proof.Machine.execNopOp23 s
  | .nopOp24 => Sys2Proof.Machine.execNopOp24 s
  | .nopOp25 => Sys2Proof.Machine.execNopOp25 s
  | .nopOp26 => Sys2Proof.Machine.execNopOp26 s
  | .nopOp27 => Sys2Proof.Machine.execNopOp27 s
  | .nopOp28 => Sys2Proof.Machine.execNopOp28 s
  | .halt => Sys2Proof.Machine.execHalt s
  | .nopOp30 => Sys2Proof.Machine.execNopOp30 s
  | .nopOp31 => Sys2Proof.Machine.execNopOp31 s

end Sys2Proof.Machine
end

