-- ==== Sys2Proof/Machine/Sequencer.lean ====
section
/-! DEFINITION. The fetch-decode-execute state machine (41_instruction_cycle_fsm.md R120 to R137): the micro-step, the
instruction cycle as `step` runs it, and the spec's own composed function `cycle`. -/

namespace Sys2Proof.Machine

/-- The guard of Fetch (R121, R132, R133): Halt at PC of 100 or more, the fault below 0 (D6, log 10), else `f`. -/
def fetchGuard (s : State) (f : State → Result) : Result :=
  if (Config.memLen : Int) ≤ s.pc.toInt then .next (s.goto .halt .m0)
  else if s.pc.toInt < 0 then .fault .fetchAddressInvalid
  else f s

/-- Fetch microstate 0, guard passed (R121): `MAR <- PC`. -/
def fetch0 (s : State) : State := { s with mar := s.pc, microstate := .m1 }

/-- Fetch microstate 1 (R122): `ALU_A <- PC`. -/
def fetch1 (s : State) : State := { s with aluA := s.pc, microstate := .m2 }

/-- Fetch microstate 2 (R123): `IR <- MemRead(PC, 1)`. The guard has put PC in range; elsewhere there is no word to
read (log 20). -/
def fetch2 (s : State) : Result :=
  match s.memRead s.pc with
  | some w => .next { s with ir := w, microstate := .m3 }
  | none => .fault .fetchAddressInvalid

/-- Fetch microstate 3 (R124): `PC <- ALU_A + 1`, by the ALU path. -/
def fetch3 (s : State) : State := { s with pc := truncate32 (s.aluA.toInt + 1), microstate := .exit }

/-- Fetch microstate Exit (R125). -/
def fetchExit (s : State) : State := s.goto .decode .m0

/-- Decode (R126): `DEC <- decode(IR)`. -/
def decodeStep (s : State) : State := { s with dec := decodeFields s.ir, macrostate := .execute, microstate := .m0 }

/-- Execute (R127, R128): the effect of DEC's opcode. -/
def executeStep (s : State) : Result :=
  match s.dec.toInstr s.params.opcodes with
  | some i => exec i s
  | none => .refused .undefinedField

/-- One micro-step: the table of R120. Microstate is not read outside Fetch (R34, D7, log 11). -/
def microStep (s : State) : Result :=
  match s.macrostate with
  | .fetch =>
    match s.microstate with
    | .m0 => fetchGuard s fun s => .next (fetch0 s)
    | .m1 => .next (fetch1 s)
    | .m2 => fetch2 s
    | .m3 => .next (fetch3 s)
    | .exit => .next (fetchExit s)
  | .decode => .next (decodeStep s)
  | .execute => executeStep s
  | .halt => .next s

/-- At most `n` micro-steps, stopping at a cycle boundary. -/
def toBoundary : Nat → State → Result
  | 0, s => .next s
  | n + 1, s => if s.atBoundary then .next s else andThen (microStep s) (toBoundary n)

/-- One request `step()` (50_host_interface.md R183): micro-steps up to the next cycle boundary, at most 7 (R236). In
Halt it changes nothing (R190, D9, log 13). From a state inside a cycle, where the host cannot act, it finishes that
cycle (log 18). -/
def runCycle (s : State) : Result := andThen (microStep s) (toBoundary 6)

/-- The state in which Execute begins, after the Fetch and the Decode of the word `w` at PC (R121 to R126). -/
def State.fetched (s : State) (w : Word) : State :=
  { s with mar := s.pc, aluA := s.pc, ir := w, pc := truncate32 (s.pc.toInt + 1), dec := decodeFields w,
           macrostate := .execute, microstate := .m0 }

/-- `cycle(s)` (R135), as the spec composes it from a cycle boundary with Macrostate Fetch. -/
def cycle (s : State) : Result :=
  fetchGuard s fun s =>
    match s.memRead s.pc with
    | some w => executeStep (s.fetched w)
    | none => .fault .fetchAddressInvalid

end Sys2Proof.Machine
end

