-- ==== Sys2Proof/Machine/Trace.lean ====
section
/-! DEFINITION. The trace record that `step` returns beside the next state (50_host_interface.md R187, D17, log 17). It
is output only: no state holds it and nothing in the machine reads it. -/

namespace Sys2Proof.Machine

/-- The mnemonics of the eleven assigned opcodes (R187). -/
inductive Mnemonic where
  | ldi
  | ld
  | st
  | add
  | sub
  | and
  | or
  | not
  | br
  | brz
  | halt
deriving DecidableEq, Repr

/-- The status of a cycle (R187): the anomalies of 60_exceptions.md R200, R201, or neither. -/
inductive Status where
  | ok
  | addressOutOfBounds
  | noOperation
deriving DecidableEq, Repr

/-- The record of a cycle that executed an instruction (R187). -/
structure TraceRecord where
  mnemonic : Option Mnemonic
  status : Status
  ir : Word
deriving DecidableEq, Repr

/-- The instruction's name in the record, none for an unrecognized opcode (R187). -/
def mnemonicOf : Instr → Option Mnemonic
  | .ldi _ _ => some .ldi
  | .ld _ _ _ => some .ld
  | .st _ _ _ => some .st
  | .add _ _ _ => some .add
  | .sub _ _ _ => some .sub
  | .and _ _ _ => some .and
  | .or _ _ _ => some .or
  | .not _ _ => some .not
  | .br _ => some .br
  | .brz _ => some .brz
  | .halt => some .halt
  | .nopOp0 => none
  | .nopOp3 => none
  | .nopOp5 => none
  | .nopOp6 => none
  | .nopOp7 => none
  | .nopOp13 => none
  | .nopOp14 => none
  | .nopOp15 => none
  | .nopOp18 => none
  | .nopOp19 => none
  | .nopOp20 => none
  | .nopOp21 => none
  | .nopOp22 => none
  | .nopOp23 => none
  | .nopOp24 => none
  | .nopOp25 => none
  | .nopOp26 => none
  | .nopOp27 => none
  | .nopOp28 => none
  | .nopOp30 => none
  | .nopOp31 => none

/-- The status of an LD or ST: its address is checked, and the anomaly reported (R154, R200). -/
def accessStatus (s : State) (sr1 : RegIdx) (imm : Int) : Status :=
  if inBounds (effectiveAddress (s.reg sr1) imm) then .ok else .addressOutOfBounds

/-- What Execute reports for an instruction, from the state it executes in (R154, R173, R200, R201). -/
def statusOf (i : Instr) (s : State) : Status :=
  match i with
  | .ldi _ _ => .ok
  | .ld _ sr1 imm => accessStatus s sr1 imm
  | .st _ sr1 imm => accessStatus s sr1 imm
  | .add _ _ _ => .ok
  | .sub _ _ _ => .ok
  | .and _ _ _ => .ok
  | .or _ _ _ => .ok
  | .not _ _ => .ok
  | .br _ => .ok
  | .brz _ => .ok
  | .halt => .ok
  | .nopOp0 => .noOperation
  | .nopOp3 => .noOperation
  | .nopOp5 => .noOperation
  | .nopOp6 => .noOperation
  | .nopOp7 => .noOperation
  | .nopOp13 => .noOperation
  | .nopOp14 => .noOperation
  | .nopOp15 => .noOperation
  | .nopOp18 => .noOperation
  | .nopOp19 => .noOperation
  | .nopOp20 => .noOperation
  | .nopOp21 => .noOperation
  | .nopOp22 => .noOperation
  | .nopOp23 => .noOperation
  | .nopOp24 => .noOperation
  | .nopOp25 => .noOperation
  | .nopOp26 => .noOperation
  | .nopOp27 => .noOperation
  | .nopOp28 => .noOperation
  | .nopOp30 => .noOperation
  | .nopOp31 => .noOperation

/-- The record of an Execute micro-step. -/
def executeRecord (s : State) : Option TraceRecord :=
  match s.dec.toInstr s.params.opcodes with
  | some i => some { mnemonic := mnemonicOf i, status := statusOf i s, ir := s.ir }
  | none => none

/-- The record that `step()` at `s` returns (R183, R187): none for a step in Halt, for a cycle whose Fetch guard fails
and outside a cycle boundary (D9, D17). -/
def stepRecord (s : State) : Option TraceRecord :=
  match s.macrostate, s.microstate with
  | .fetch, .m0 =>
    match s.memRead s.pc with
    | some w => executeRecord (s.fetched w)
    | none => none
  | _, _ => none

end Sys2Proof.Machine
end

