-- ==== Sys2Proof/Machine/HostOps.lean ====
section
/-! DEFINITION. What the host may request at a cycle boundary (50_host_interface.md R181 to R190). Reset is
`State.construct` (R180), one `step()` is `runCycle` with the record `stepRecord` (R183). -/

namespace Sys2Proof.Machine

/-- Writes `words` at the indices from `i` upward. -/
def Memory.writeAll : Memory → Nat → List Word → Memory
  | m, _, [] => m
  | m, i, w :: words => Memory.writeAll (m.write i w) (i + 1) words

/-- A host write of memory, at a cycle boundary only (R188, R189). -/
def hostWrite (s : State) (f : State → State) : Result :=
  if s.atBoundary then .next (f s) else .refused .insideCycle

/-- `loadProgram(words)` (R181, D10, log 14): memory from index 0 and PC; in Halt the machine stays in Halt. -/
def loadProgram (words : List Word) (s : State) : Result :=
  if words.length ≤ Config.memLen then hostWrite s fun s => (s.setMem (s.mem.writeAll 0 words)).setPC 0
  else .refused .programTooLong

/-- `reset-memory` (R182, D11, log 15): the host writes a Word of its choice, `fill`, to every memory index. -/
def resetMemory (fill : Vector Word 100) (s : State) : Result :=
  hostWrite s fun s => s.setMem (s.mem.writeAll 0 fill.toList)

/-- What `snapshot` shows (R186). -/
structure Snapshot where
  registers : Vector Word 16
  memory : List Word
  pc : Word
  ir : Word
  mar : Word
  mdr : Word
  aluA : Word
  aluB : Word
  aluR : Word
  statusWord : Word
deriving DecidableEq, Repr

/-- `snapshot()` (R186): a read-only view, at a cycle boundary only. -/
def snapshot (s : State) : Option Snapshot :=
  if s.atBoundary then
    some { registers := s.regs, memory := (List.range Config.memLen).map s.mem.read, pc := s.pc, ir := s.ir,
           mar := s.mar, mdr := s.mdr, aluA := s.aluA, aluB := s.aluB, aluR := s.aluR, statusWord := s.sw }
  else none

/-- `halted` (R186, D18). -/
def halted (s : State) : Bool := decide (s.macrostate = .halt)

/-- `run(cancel)` (R184, R185): steps until Halt or a poll of `cancel` that reads true. `polls` are the values that
`cancel` takes at the successive boundaries (true where the list ends), the host's free choice. It answers the records
of the steps and where the machine stands. -/
def run : List Bool → State → List (Option TraceRecord) × Result
  | [], s => ([], .next s)
  | cancel :: polls, s =>
    if cancel || halted s then ([], .next s)
    else
      match runCycle s with
      | .next t => (stepRecord s :: (run polls t).1, (run polls t).2)
      | .fault e => ([stepRecord s], .fault e)
      | .refused e => ([stepRecord s], .refused e)

end Sys2Proof.Machine
end

