-- ==== Sys2Proof/Machine/Fetching.lean ====
section
/-! DEFINITION. Placing one instruction where the next step fetches it. -/

namespace Sys2Proof.Machine

/-- `s` at a cycle boundary of Fetch, PC in the memory, with the word `w` at PC (log 19). An in-range PC is kept. -/
def State.placeWord (s : State) (w : Word) : State :=
  if inBounds s.pc then (s.setMem (s.mem.write s.pc.toNat w)).goto .fetch .m0
  else ((s.setMem (s.mem.write 0 w)).setPC 0).goto .fetch .m0

end Sys2Proof.Machine
end

