-- ==== Sys2Proof/Machine/Step.lean ====
section
/-! DEFINITION. One step of the machine: one request `step()` of the host, one instruction cycle
(50_host_interface.md R183, R190; 41_instruction_cycle_fsm.md R135). -/

namespace Sys2Proof.Machine

/-- One instruction cycle (log 18). -/
def step (s : State) : Host.Outcome State Fault Refusal := runCycle s

/-- `s` with an instruction's word where the next step fetches it (log 19). An instruction is one 32-bit Word (R70). -/
def State.withFetchWord (s : State) (nbits w : Nat) : State := s.placeWord (BitVec.ofNat 32 (w % 2 ^ nbits))

end Sys2Proof.Machine
end

