-- ==== Sys2Proof/Safety.lean ====
section
/-! DEFINITION. The terms in which claims about the machine are stated: frames, the flags a result must leave, the
invariant of every state, and a safe run. -/

namespace Sys2Proof.Safety

open Sys2Proof.Machine

/-- Every register holds what it held. -/
def SameRegs (s t : State) : Prop := ∀ r : RegIdx, t.reg r = s.reg r

/-- Every register but `dr` holds what it held. -/
def SameRegsBut (dr : RegIdx) (s t : State) : Prop := ∀ r : RegIdx, r ≠ dr → t.reg r = s.reg r

/-- Every memory index reads as before. -/
def SameMem (s t : State) : Prop := ∀ a : Nat, t.mem.read a = s.mem.read a

/-- Every memory index but `i` reads as before. -/
def SameMemBut (i : Nat) (s t : State) : Prop := ∀ a : Nat, a ≠ i → t.mem.read a = s.mem.read a

/-- The datapath registers that Execute does not write (R134, with D8 for MAR, MDR, ALU_A, ALU_B and ALU_R, log 12), DEC,
and the parameters (R8). -/
structure SameLatches (s t : State) : Prop where
  ir : t.ir = s.ir
  mar : t.mar = s.mar
  mdr : t.mdr = s.mdr
  aluA : t.aluA = s.aluA
  aluB : t.aluB = s.aluB
  aluR : t.aluR = s.aluR
  dec : t.dec = s.dec
  params : t.params = s.params

/-- A cycle boundary with Macrostate Fetch (00_scope.md R12). -/
def AtFetch (s : State) : Prop := s.macrostate = .fetch ∧ s.microstate = .m0

/-- PC is the index of a memory word: the guard of Fetch passes (R121). -/
def PCInMemory (s : State) : Prop := 0 ≤ s.pc.toInt ∧ s.pc.toInt < 100

/-- The flags of the wide value `x` (R107), the other 28 bits of the StatusWord zero (R25). -/
structure WideFlags (t : State) (x : Int) : Prop where
  z : t.flags.z = true ↔ x = 0
  n : t.flags.n = true ↔ x < 0
  c : t.flags.c = true ↔ x > 2 ^ 31 - 1 ∨ x < -2 ^ 31
  v : t.flags.v = true ↔ x > 2 ^ 31 - 1 ∨ x < -2 ^ 31
  low : t.sw.extractLsb' 0 28 = 0#28

/-- The flags of a bitwise result `w` (R162 to R164), the other 28 bits of the StatusWord zero (R25). -/
structure BitwiseFlags (t : State) (w : Word) : Prop where
  z : t.flags.z = true ↔ w = 0
  n : t.flags.n = w.getLsbD 31
  c : t.flags.c = false
  v : t.flags.v = false
  low : t.sw.extractLsb' 0 28 = 0#28

/-- What Fetch has done at each microstate (R121 to R124). -/
def FetchInProgress (s : State) : Prop :=
  match s.microstate with
  | .m0 => True
  | .m1 => PCInMemory s ∧ s.mar = s.pc
  | .m2 => PCInMemory s ∧ s.mar = s.pc ∧ s.aluA = s.pc
  | .m3 => PCInMemory s ∧ s.mar = s.pc ∧ s.aluA = s.pc ∧ s.ir = s.mem.read s.pc.toNat
  | .exit => s.aluA = s.mar ∧ s.pc.toInt = s.aluA.toInt + 1

/-- The invariant of every micro-step (R39), with the canonical form of the memory (log 1), the flag combinations
that can occur (R109, R110), and what the sequencer has done inside a cycle (R121 to R126). -/
structure CoreInv (s : State) : Prop where
  mem_wf : s.mem.wf = true
  sw_low : s.sw.extractLsb' 0 28 = 0#28
  carry_eq_overflow : s.flags.c = s.flags.v
  zero_excludes : s.flags.z = true → s.flags.n = false ∧ s.flags.c = false
  micro_zero : s.macrostate ≠ .fetch → s.microstate = .m0
  fetching : s.macrostate = .fetch → FetchInProgress s
  decoded : s.macrostate = .execute → s.dec = decodeFields s.ir

/-- MDR, ALU_B and ALU_R hold 0, as the model takes D8 (log 12). -/
def UnwrittenZero (s : State) : Prop := s.mdr = 0 ∧ s.aluB = 0 ∧ s.aluR = 0

/-- `n` micro-steps, stopping at the first fault or refusal. -/
def microSteps : Nat → State → Result
  | 0, s => .next s
  | n + 1, s => andThen (microStep s) (microSteps n)

/-- `n` steps, stopping at the first fault or refusal: `Host.Core.run` of this machine. -/
def runSteps : Nat → State → Result
  | 0, s => .next s
  | n + 1, s => andThen (step s) (runSteps n)

/-- The bits of a word that are not ignored under its opcode (R80). -/
def usedBits (ops : Config.BranchOpcodes) (w : Word) : Word :=
  match (rowOfOpcode ops (opcodeField w)).toNat with
  | 1 => 0xFFFFFFFF#32
  | 2 => 0xFFFFFFFF#32
  | 4 => 0xFFFFFFFF#32
  | 8 => 0xFFFF8000#32
  | 9 => 0xFFFF8000#32
  | 10 => 0xFFFF8000#32
  | 11 => 0xFFFF8000#32
  | 12 => 0xFFF80000#32
  | 16 => 0xFFFFFFFF#32
  | 17 => 0xFFFFFFFF#32
  | _ => 0xF8000000#32

/-- The 21 instructions of the unassigned opcodes (R82). -/
def noOperations : List Instr :=
  [.nopOp0, .nopOp3, .nopOp5, .nopOp6, .nopOp7, .nopOp13, .nopOp14, .nopOp15, .nopOp18, .nopOp19, .nopOp20, .nopOp21,
   .nopOp22, .nopOp23, .nopOp24, .nopOp25, .nopOp26, .nopOp27, .nopOp28, .nopOp30, .nopOp31]

/-- The five flag-setting instructions (R26). -/
def setsFlags : Instr → Bool
  | .add _ _ _ => true
  | .sub _ _ _ => true
  | .and _ _ _ => true
  | .or _ _ _ => true
  | .not _ _ => true
  | _ => false

/-- BR and BRZ, the only instructions that overwrite PC (R23). -/
def isBranch : Instr → Bool
  | .br _ => true
  | .brz _ => true
  | _ => false

/-- What a program can depend on at a cycle boundary: the registers, the memory, PC, the Zero flag, whether the machine
runs, and the opcode numbers. Everything else is read by no instruction (R26, R28 to R32), and no instruction reads the
StatusWord as a number, so the places of the flags do not matter (D3). -/
structure SameForPrograms (s t : State) : Prop where
  regs : t.regs = s.regs
  mem : t.mem = s.mem
  pc : t.pc = s.pc
  zero : t.flags.z = s.flags.z
  opcodes : t.params.opcodes = s.params.opcodes
  macrostate : t.macrostate = s.macrostate
  microstate : t.microstate = s.microstate

/-- A safe run of `n` steps from `s`: it meets no fault and no refusal. -/
def SafeFor (n : Nat) (s : State) : Prop := ∃ t, runSteps n s = .next t

end Sys2Proof.Safety
end

