-- ==== Sys2Proof/Certificates/Slice0/Obligations.lean ====
section
/-! DEFINITION. The statements for the provers. Titles, texts and the rules they cite are in OBLIGATIONS.json. -/

open Sys2Proof Sys2Proof.Machine Sys2Proof.Safety

/-! ### Encoding -/

/-- R100: the formula, its range, and the rule's examples. -/
def Obligations.SignExtensionIsTwosComplement : Prop :=
  (∀ (n : Nat) (f : BitVec n), 2 ≤ n →
    sext f = (if f.toNat < 2 ^ (n - 1) then (f.toNat : Int) else (f.toNat : Int) - 2 ^ n) ∧
    -2 ^ (n - 1) ≤ sext f ∧ sext f ≤ 2 ^ (n - 1) - 1) ∧
  sext 0x000005#23 = 5 ∧ sext 0x7FFFFF#23 = -1 ∧ sext 0x400000#23 = -4194304 ∧ sext 0x00096#19 = 150 ∧
  sext 0x7FFFFFD#27 = -3

/-- R86: sign extension followed by reduction to n bits gives back the field, at every width. -/
def Obligations.SignExtensionRoundTrip : Prop :=
  ∀ (n : Nat) (f : BitVec n), 1 ≤ n → sext f % 2 ^ n = (f.toNat : Int)

/-- R77: Decode is total and its fields are those of the rule's pseudocode, bit range by bit range. -/
def Obligations.DecodeFollowsTheFormats : Prop :=
  ∀ w : Word,
    (decodeFields w).opcode = w.extractLsb' 27 5 ∧
    (if (w.extractLsb' 27 5).toNat = 1 then
      (decodeFields w).format = .f1 ∧
      (decodeFields w).dr.map (fun r => r.val) = some (w.extractLsb' 23 4).toNat ∧
      (decodeFields w).sr1 = none ∧ (decodeFields w).sr2 = none ∧
      (decodeFields w).immed = some (w.extractLsb' 0 23).toInt
    else if (w.extractLsb' 27 5).toNat ∈ [2, 4, 12] then
      (decodeFields w).format = .f2 ∧
      (decodeFields w).dr.map (fun r => r.val) = some (w.extractLsb' 23 4).toNat ∧
      (decodeFields w).sr1.map (fun r => r.val) = some (w.extractLsb' 19 4).toNat ∧ (decodeFields w).sr2 = none ∧
      (decodeFields w).immed = some (w.extractLsb' 0 19).toInt
    else if (w.extractLsb' 27 5).toNat ∈ [8, 9, 10, 11] then
      (decodeFields w).format = .f3 ∧
      (decodeFields w).dr.map (fun r => r.val) = some (w.extractLsb' 23 4).toNat ∧
      (decodeFields w).sr1.map (fun r => r.val) = some (w.extractLsb' 19 4).toNat ∧
      (decodeFields w).sr2.map (fun r => r.val) = some (w.extractLsb' 15 4).toNat ∧
      (decodeFields w).immed = none
    else
      (decodeFields w).format = .f4 ∧ (decodeFields w).dr = none ∧ (decodeFields w).sr1 = none ∧
      (decodeFields w).sr2 = none ∧ (decodeFields w).immed = some (w.extractLsb' 0 27).toInt)

/-- R82: no encoding is illegal: every pattern decodes to a well-formed instruction, that of its opcode's row. -/
def Obligations.EveryWordDecodes : Prop :=
  ∀ (ops : Config.BranchOpcodes) (w : Word),
    ∃ i, decode ops w = some i ∧ i.wellFormed = true ∧ i.opcode ops = w.extractLsb' 27 5

/-- R81, R8: which instruction an opcode selects, for every admitted OP_BR and OP_BRZ. -/
def Obligations.BranchOpcodesMoveTheirRows : Prop :=
  ∀ (ops : Config.BranchOpcodes) (w : Word),
    (w.extractLsb' 27 5 = ops.opBr → decode ops w = some (.br (w.extractLsb' 0 27).toInt)) ∧
    (w.extractLsb' 27 5 = ops.opBrz → decode ops w = some (.brz (w.extractLsb' 0 27).toInt)) ∧
    ((w.extractLsb' 27 5).toNat ∈ Config.fixedOpcodes →
      decode ops w = decode Config.defaultBranchOpcodes w ∧ ∀ i, decode ops w = some i → i.row = w.extractLsb' 27 5) ∧
    ((w.extractLsb' 27 5).toNat ∉ Config.fixedOpcodes → w.extractLsb' 27 5 ≠ ops.opBr → w.extractLsb' 27 5 ≠ ops.opBrz →
      ∃ i, decode ops w = some i ∧ i ∈ noOperations)

/-- Decode and encode agree, for every instruction with every operand at every value its field admits. -/
def Obligations.DecodeEncodeAgree : Prop :=
  ∀ (ops : Config.BranchOpcodes) (i : Instr), i.wellFormed = true → decode ops (encode ops i) = some i

/-- Encoding what a word decodes to gives the word back, its ignored bits cleared. -/
def Obligations.EncodeDecodeClearsIgnoredBits : Prop :=
  ∀ (ops : Config.BranchOpcodes) (w : Word) (i : Instr), decode ops w = some i → encode ops i = w &&& usedBits ops w

/-- R80: bits that a format does not assign, and fields an instruction does not read, do not matter. -/
def Obligations.IgnoredBitsDoNotMatter : Prop :=
  ∀ (ops : Config.BranchOpcodes) (w w' : Word),
    opcodeField w = opcodeField w' →
    ((opcodeField w).toNat ∈ [8, 9, 10, 11] → w.extractLsb' 15 12 = w'.extractLsb' 15 12) →
    ((opcodeField w).toNat = 12 → w.extractLsb' 19 8 = w'.extractLsb' 19 8) →
    ((opcodeField w).toNat ∈ [1, 2, 4] ∨ opcodeField w = ops.opBr ∨ opcodeField w = ops.opBrz → w = w') →
    decode ops w = decode ops w'

/-- Words of spec/95_test_vectors.md V1 (BR and BRZ at the default opcode numbers, log 6). -/
def Obligations.KnownWordsDecode : Prop :=
  decode Config.defaultBranchOpcodes 0x0FC00000#32 = some (.ldi 15 (-4194304)) ∧
  decode Config.defaultBranchOpcodes 0x1787FFFF#32 = some (.ld 15 0 (-1)) ∧
  decode Config.defaultBranchOpcodes 0x2180000C#32 = some (.st 3 0 12) ∧
  decode Config.defaultBranchOpcodes 0x41897FFF#32 = some (.add 3 1 2) ∧
  decode Config.defaultBranchOpcodes 0x63B7FFFF#32 = some (.not 7 6) ∧
  decode Config.defaultBranchOpcodes 0x87FFFFFD#32 = some (.br (-3)) ∧
  decode Config.defaultBranchOpcodes 0x88000003#32 = some (.brz 3) ∧
  decode Config.defaultBranchOpcodes 0xEFFFFFFF#32 = some .halt ∧
  decode Config.defaultBranchOpcodes 0x1D000000#32 = some .nopOp3 ∧
  decode Config.defaultBranchOpcodes 0#32 = some .nopOp0

/-! ### The ALU and the status word -/

/-- R101: `truncate32` in the rule's closed form, the identity on Words, and the rule's examples. -/
def Obligations.TruncateIsReductionModulo : Prop :=
  (∀ x : Int, (truncate32 x).toInt = (x + 2 ^ 31) % 2 ^ 32 - 2 ^ 31 ∧ ((truncate32 x).toNat : Int) = x % 2 ^ 32) ∧
  (∀ w : Word, truncate32 w.toInt = w) ∧
  (truncate32 (2 ^ 31)).toInt = -2 ^ 31 ∧ (truncate32 (-2 ^ 31 - 1)).toInt = 2 ^ 31 - 1 ∧
  (truncate32 (-2 ^ 32)).toInt = 0 ∧ (truncate32 (2 ^ 32 - 2)).toInt = -2

/-- R106: `not` complements all 32 bits, which equals -a - 1, and the rule's examples. -/
def Obligations.NotComplementsEveryBit : Prop :=
  (∀ a : Word, (∀ k, k < 32 → (bitNot a).getLsbD k = !a.getLsbD k) ∧ (bitNot a).toInt = -a.toInt - 1) ∧
  (bitNot 0).toInt = -1 ∧ (bitNot (-1)).toInt = 0 ∧ (bitNot 0x7FFFFFFF#32).toInt = -2 ^ 31

/-- R107: the four conditions on the wide value, and what they say of a Word. -/
def Obligations.FlagsDescribeTheWideValue : Prop :=
  (∀ x : Int,
    ((deriveFlags x).z = true ↔ x = 0) ∧ ((deriveFlags x).n = true ↔ x < 0) ∧
    ((deriveFlags x).c = true ↔ x > 2 ^ 31 - 1 ∨ x < -2 ^ 31) ∧ (deriveFlags x).v = (deriveFlags x).c) ∧
  (∀ w : Word,
    (deriveFlags w.toInt).c = false ∧ (deriveFlags w.toInt).v = false ∧
    ((deriveFlags w.toInt).z = true ↔ w = 0) ∧ (deriveFlags w.toInt).n = w.getLsbD 31)

/-- R108, R110: every flag at its place and the rest zero, for every admitted SW_Z, SW_N, SW_C, SW_V, and the StatusWord
of every range of the wide value at the default places (D3, log 7). -/
def Obligations.StatusWordOfEveryRange : Prop :=
  (∀ (l : Config.FlagLayout) (f : Flags),
    (pack l f).getLsbD l.swZ = f.z ∧ (pack l f).getLsbD l.swN = f.n ∧ (pack l f).getLsbD l.swC = f.c ∧
    (pack l f).getLsbD l.swV = f.v ∧ (pack l f).extractLsb' 0 28 = 0#28) ∧
  ∀ x : Int,
    pack Config.defaultFlagLayout (deriveFlags x) =
      if x = 0 then 0x80000000#32
      else if x < -2147483648 then 0x70000000#32
      else if x < 0 then 0x40000000#32
      else if x ≤ 2147483647 then 0x00000000#32
      else 0x30000000#32

/-! ### Memory -/

/-- R53: what the two memory primitives do, on every address. The latches kept are the model's choice D8 (log 12). -/
def Obligations.MemoryPrimitivesMoveOneWord : Prop :=
  ∀ (s : State) (a v : Word), s.mem.wf = true →
    (0 ≤ a.toInt ∧ a.toInt < 100 →
      s.memRead a = some (s.mem.read a.toInt.toNat) ∧
      ∃ t, s.memWrite a v = some t ∧ t.memRead a = some v ∧ SameMemBut a.toInt.toNat s t ∧ SameRegs s t ∧
        SameLatches s t ∧ t.sw = s.sw ∧ t.pc = s.pc ∧ t.macrostate = s.macrostate ∧ t.microstate = s.microstate) ∧
    (a.toInt < 0 ∨ 100 ≤ a.toInt → s.memRead a = none ∧ s.memWrite a v = none)

/-- The canonical form (log 1): two memories in it that read alike at every index are the same data. -/
def Obligations.MemoryFormIsCanonical : Prop :=
  ∀ m m' : Memory, m.wf = true → m'.wf = true → (∀ i, m.read i = m'.read i) → m = m'

/-- R59 (a): a load returns the word of the store before it to the same index, whatever registers address it. -/
def Obligations.LoadReturnsTheStoredWord : Prop :=
  ∀ (s : State) (dr sr1 dr' sr1' : RegIdx) (imm imm' : Int), s.mem.wf = true →
    inBounds (effectiveAddress (s.reg sr1) imm) = true →
    effectiveAddress (s.reg sr1') imm' = effectiveAddress (s.reg sr1) imm →
    ∃ t u, exec (.st dr sr1 imm) s = .next t ∧ exec (.ld dr' sr1' imm') t = .next u ∧ u.reg dr' = s.reg dr

/-- R62: a stored word is what the very next fetch of that index runs. -/
def Obligations.StoredWordIsFetchedNext : Prop :=
  ∀ (s : State) (dr sr1 : RegIdx) (imm : Int) (i : Instr), s.mem.wf = true → PCInMemory s →
    effectiveAddress (s.reg sr1) imm = s.pc → decode s.params.opcodes (s.reg dr) = some i →
    ∃ t, exec (.st dr sr1 imm) s = .next t ∧ t.ir = s.ir ∧ step t = exec i (t.fetched (s.reg dr))

/-! ### The sequencer -/

/-- A step runs the instruction at PC, in the state that Fetch and Decode leave (R121 to R127). -/
def Obligations.StepRunsTheDecodedInstruction : Prop :=
  ∀ (s : State) (i : Instr), AtFetch s → PCInMemory s →
    decode s.params.opcodes (s.mem.read s.pc.toInt.toNat) = some i →
    ∃ u, step s = exec i u ∧ u.pc.toInt = s.pc.toInt + 1 ∧ u.ir = s.mem.read s.pc.toInt.toNat ∧ u.mar = s.pc ∧
      u.aluA = s.pc ∧ u.dec = decodeFields u.ir ∧ u.regs = s.regs ∧ u.mem = s.mem ∧ u.sw = s.sw ∧ u.mdr = s.mdr ∧
      u.aluB = s.aluB ∧ u.aluR = s.aluR ∧ u.params = s.params ∧ u.macrostate = .execute ∧ u.microstate = .m0

/-- R120: the rows of the transition table (microstates by D7, the negative PC by D6). -/
def Obligations.MicroStepTable : Prop :=
  ∀ s : State,
    (AtFetch s → 100 ≤ s.pc.toInt → microStep s = .next { s with macrostate := .halt }) ∧
    (AtFetch s → s.pc.toInt < 0 → microStep s = .fault .fetchAddressInvalid) ∧
    (AtFetch s → PCInMemory s → microStep s = .next { s with mar := s.pc, microstate := .m1 }) ∧
    (s.macrostate = .fetch → s.microstate = .m1 → microStep s = .next { s with aluA := s.pc, microstate := .m2 }) ∧
    (s.macrostate = .fetch → s.microstate = .m2 → PCInMemory s →
      microStep s = .next { s with ir := s.mem.read s.pc.toInt.toNat, microstate := .m3 }) ∧
    (s.macrostate = .fetch → s.microstate = .m3 → s.aluA.toInt < 2 ^ 31 - 1 →
      ∃ v : Word, v.toInt = s.aluA.toInt + 1 ∧ microStep s = .next { s with pc := v, microstate := .exit }) ∧
    (s.macrostate = .fetch → s.microstate = .exit →
      microStep s = .next { s with macrostate := .decode, microstate := .m0 }) ∧
    (s.macrostate = .decode → s.microstate = .m0 →
      microStep s = .next { s with dec := decodeFields s.ir, macrostate := .execute }) ∧
    (∀ i, s.macrostate = .execute → s.dec.toInstr s.params.opcodes = some i → microStep s = exec i s) ∧
    (s.macrostate = .halt → microStep s = .next s)

/-- R135: from a cycle boundary the micro-steps compose into `cycle`. -/
def Obligations.MicroStepsComposeIntoCycle : Prop :=
  ∀ s : State, AtFetch s → step s = cycle s

/-- R236: 7 micro-steps for a completed cycle of any instruction, none of the states between at a boundary. -/
def Obligations.CompletedCycleIsSevenMicroSteps : Prop :=
  ∀ s : State, AtFetch s → PCInMemory s →
    (∀ k, 1 ≤ k → k ≤ 6 → ∃ u, microSteps k s = .next u ∧ u.atBoundary = false) ∧
    ∃ t, microSteps 7 s = .next t ∧ t.atBoundary = true ∧ step s = .next t

/-- R136, R183: whatever state a step starts in, it ends at a cycle boundary. -/
def Obligations.StepEndsAtCycleBoundary : Prop :=
  ∀ s t : State, step s = .next t → t.atBoundary = true

/-- R133: Fetch with PC of 100 or more goes to Halt and changes nothing else. -/
def Obligations.PCExhaustionHalts : Prop :=
  ∀ s : State, AtFetch s → 100 ≤ s.pc.toInt →
    ∃ t, step s = .next t ∧ t.macrostate = .halt ∧ t = { s with macrostate := .halt }

/-- R137, R204: a step of a state that meets the invariant answers a next state, but for the one fault, which is
Fetch at a negative PC (D6, log 10). -/
def Obligations.OnlyNegativePCFaults : Prop :=
  ∀ s : State, CoreInv s →
    (AtFetch s ∧ s.pc.toInt < 0 → step s = .fault .fetchAddressInvalid) ∧
    (¬ (AtFetch s ∧ s.pc.toInt < 0) → ∃ t, step s = .next t)

/-- R129: nothing leaves Halt, and a step in Halt changes nothing (D9, log 13). -/
def Obligations.HaltIsTerminal : Prop :=
  ∀ s : State, s.macrostate = .halt →
    microStep s = .next s ∧ step s = .next s ∧ stepRecord s = none ∧ (∀ n, runSteps n s = .next s) ∧
    (∀ polls, run polls s = ([], .next s)) ∧ ∀ words t, loadProgram words s = .next t → t.macrostate = .halt

/-- R129: Halt is reached in exactly two ways. -/
def Obligations.HaltIsReachedInTwoWays : Prop :=
  ∀ s t : State, s.macrostate ≠ .halt → microStep s = .next t →
    (t.macrostate = .halt ↔
      (AtFetch s ∧ 100 ≤ s.pc.toInt) ∨ (s.macrostate = .execute ∧ s.dec.opcode = 29#5))

/-- R21: registers, memory and the status word are written by Execute only. -/
def Obligations.OnlyExecuteWritesProgramState : Prop :=
  ∀ s t : State, s.macrostate ≠ .execute → microStep s = .next t →
    t.regs = s.regs ∧ t.mem = s.mem ∧ t.sw = s.sw

/-- R128, R203: Execute never stops and never diverts: every instruction answers a next state, in Halt after HALT and at
the next Fetch after any other. -/
def Obligations.ExecuteNeverStops : Prop :=
  ∀ (i : Instr) (s : State), ∃ t, exec i s = .next t ∧ (i = .halt → t.macrostate = .halt) ∧ (i ≠ .halt → AtFetch t)

/-- R134: Execute writes none of IR, MAR, MDR, ALU_A, ALU_B, ALU_R (D8, log 12), nor DEC, nor a parameter. -/
def Obligations.ExecuteKeepsTheLatches : Prop :=
  ∀ (i : Instr) (s t : State), exec i s = .next t → SameLatches s t

/-- R26: only the five flag-setting instructions write the status word, and they overwrite all of it (D5, log 8). -/
def Obligations.OnlyFiveInstructionsWriteFlags : Prop :=
  ∀ (i : Instr) (s t : State), exec i s = .next t →
    (setsFlags i = false → t.sw = s.sw) ∧
    (setsFlags i = true → ∀ old : Word, exec i { s with sw := old } = .next t)

/-- R23: only BR and BRZ overwrite PC. -/
def Obligations.OnlyBranchesWritePC : Prop :=
  ∀ (i : Instr) (s t : State), exec i s = .next t → isBranch i = false → t.pc = s.pc

/-- MDR, ALU_B and ALU_R are never written (R29, R31, R32), and after a step that ran an instruction MAR and ALU_A hold its
index and IR its word (R27, R28, R30). The model's reading of D8, log 12. -/
def Obligations.DatapathAfterAStep : Prop :=
  (∀ s t : State, step s = .next t → t.mdr = s.mdr ∧ t.aluB = s.aluB ∧ t.aluR = s.aluR) ∧
  (∀ s : State, AtFetch s → PCInMemory s →
    ∃ t, step s = .next t ∧ t.mar = s.pc ∧ t.aluA = s.pc ∧ t.ir = s.mem.read s.pc.toInt.toNat)

/-! ### The instructions -/

/-- R150: LDI. The latches kept are the model's choice D8 (log 12). -/
def Obligations.LdiLoadsTheImmediate : Prop :=
  ∀ (dr : RegIdx) (imm : Int) (s : State), (Instr.ldi dr imm).wellFormed = true →
    (∀ w : Word, w.extractLsb' 27 5 = 1#5 → (w.extractLsb' 23 4).toNat = dr.val → (w.extractLsb' 0 23).toInt = imm →
      decode s.params.opcodes w = some (.ldi dr imm)) ∧
    ∃ t, exec (.ldi dr imm) s = .next t ∧ (t.reg dr).toInt = imm ∧ SameRegsBut dr s t ∧ SameMem s t ∧ t.sw = s.sw ∧
      t.pc = s.pc ∧ SameLatches s t ∧ AtFetch t ∧ statusOf (.ldi dr imm) s = .ok

/-- R151: LD, in bounds and out of bounds. Address 100 skipped is the model's choice D13 (log 16), the latches kept D8
(log 12). -/
def Obligations.LdLoadsOrSkips : Prop :=
  ∀ (dr sr1 : RegIdx) (imm : Int) (s : State),
    ∃ t, exec (.ld dr sr1 imm) s = .next t ∧
      (if 0 ≤ (effectiveAddress (s.reg sr1) imm).toInt ∧ (effectiveAddress (s.reg sr1) imm).toInt < 100 then
        t.reg dr = s.mem.read (effectiveAddress (s.reg sr1) imm).toInt.toNat ∧
        statusOf (.ld dr sr1 imm) s = .ok
      else t.reg dr = s.reg dr ∧ statusOf (.ld dr sr1 imm) s = .addressOutOfBounds) ∧
      SameRegsBut dr s t ∧ SameMem s t ∧ t.sw = s.sw ∧ t.pc = s.pc ∧ SameLatches s t ∧ AtFetch t

/-- R152: ST, in bounds and out of bounds, with its frame. Address 100 skipped is the model's choice D13 (log 16), the
latches kept D8 (log 12). -/
def Obligations.StStoresOrSkips : Prop :=
  ∀ (dr sr1 : RegIdx) (imm : Int) (s : State), s.mem.wf = true →
    ∃ t, exec (.st dr sr1 imm) s = .next t ∧
      (if 0 ≤ (effectiveAddress (s.reg sr1) imm).toInt ∧ (effectiveAddress (s.reg sr1) imm).toInt < 100 then
        t.mem.read (effectiveAddress (s.reg sr1) imm).toInt.toNat = s.reg dr ∧
        SameMemBut (effectiveAddress (s.reg sr1) imm).toInt.toNat s t ∧ statusOf (.st dr sr1 imm) s = .ok
      else SameMem s t ∧ statusOf (.st dr sr1 imm) s = .addressOutOfBounds) ∧
      SameRegs s t ∧ t.sw = s.sw ∧ t.pc = s.pc ∧ SameLatches s t ∧ AtFetch t

/-- R153, R154: the bound check on the truncated address is the check on the wide sum: a wrapped sum never lands in
bounds. -/
def Obligations.WrappedAddressIsNeverInBounds : Prop :=
  ∀ (base : Word) (imm : Int), fitsSigned 19 imm = true →
    (inBounds (effectiveAddress base imm) = true ↔ 0 ≤ base.toInt + imm ∧ base.toInt + imm < 100) ∧
    (0 ≤ base.toInt + imm ∧ base.toInt + imm < 100 →
      (effectiveAddress base imm).toInt = base.toInt + imm)

/-- R160: ADD. The flags overwritten are the model's choice D5 (log 8), the latches kept D8 (log 12). -/
def Obligations.AddStoresTheSum : Prop :=
  ∀ (dr sr1 sr2 : RegIdx) (s : State),
    (∀ w : Word, w.extractLsb' 27 5 = 8#5 → (w.extractLsb' 23 4).toNat = dr.val →
      (w.extractLsb' 19 4).toNat = sr1.val → (w.extractLsb' 15 4).toNat = sr2.val →
      decode s.params.opcodes w = some (.add dr sr1 sr2)) ∧
    ∃ t, exec (.add dr sr1 sr2) s = .next t ∧
      (t.reg dr).toInt = ((s.reg sr1).toInt + (s.reg sr2).toInt + 2 ^ 31) % 2 ^ 32 - 2 ^ 31 ∧
      WideFlags t ((s.reg sr1).toInt + (s.reg sr2).toInt) ∧
      SameRegsBut dr s t ∧ SameMem s t ∧ t.pc = s.pc ∧ SameLatches s t ∧ AtFetch t ∧ statusOf (.add dr sr1 sr2) s = .ok

/-- R161: SUB. The latches kept are the model's choice D8 (log 12). -/
def Obligations.SubStoresTheDifference : Prop :=
  ∀ (dr sr1 sr2 : RegIdx) (s : State),
    (∀ w : Word, w.extractLsb' 27 5 = 9#5 → (w.extractLsb' 23 4).toNat = dr.val →
      (w.extractLsb' 19 4).toNat = sr1.val → (w.extractLsb' 15 4).toNat = sr2.val →
      decode s.params.opcodes w = some (.sub dr sr1 sr2)) ∧
    ∃ t, exec (.sub dr sr1 sr2) s = .next t ∧
      (t.reg dr).toInt = ((s.reg sr1).toInt - (s.reg sr2).toInt + 2 ^ 31) % 2 ^ 32 - 2 ^ 31 ∧
      WideFlags t ((s.reg sr1).toInt - (s.reg sr2).toInt) ∧
      SameRegsBut dr s t ∧ SameMem s t ∧ t.pc = s.pc ∧ SameLatches s t ∧ AtFetch t ∧ statusOf (.sub dr sr1 sr2) s = .ok

/-- R162: AND. The signed reading of the result is the model's choice D4 (log 9), the flags overwritten D5 (log 8), the
latches kept D8 (log 12). -/
def Obligations.AndStoresTheConjunction : Prop :=
  ∀ (dr sr1 sr2 : RegIdx) (s : State),
    ∃ t, exec (.and dr sr1 sr2) s = .next t ∧
      (∀ k, k < 32 → (t.reg dr).getLsbD k = ((s.reg sr1).getLsbD k && (s.reg sr2).getLsbD k)) ∧
      BitwiseFlags t (t.reg dr) ∧
      SameRegsBut dr s t ∧ SameMem s t ∧ t.pc = s.pc ∧ SameLatches s t ∧ AtFetch t ∧ statusOf (.and dr sr1 sr2) s = .ok

/-- R163: OR. The signed reading of the result is the model's choice D4 (log 9), the flags overwritten D5 (log 8), the
latches kept D8 (log 12). -/
def Obligations.OrStoresTheDisjunction : Prop :=
  ∀ (dr sr1 sr2 : RegIdx) (s : State),
    ∃ t, exec (.or dr sr1 sr2) s = .next t ∧
      (∀ k, k < 32 → (t.reg dr).getLsbD k = ((s.reg sr1).getLsbD k || (s.reg sr2).getLsbD k)) ∧
      BitwiseFlags t (t.reg dr) ∧
      SameRegsBut dr s t ∧ SameMem s t ∧ t.pc = s.pc ∧ SameLatches s t ∧ AtFetch t ∧ statusOf (.or dr sr1 sr2) s = .ok

/-- R164: NOT. The signed reading of the result is the model's choice D4 (log 9), the flags overwritten D5 (log 8), the
latches kept D8 (log 12). -/
def Obligations.NotStoresTheComplement : Prop :=
  ∀ (dr sr1 : RegIdx) (s : State),
    ∃ t, exec (.not dr sr1) s = .next t ∧ (t.reg dr).toInt = -(s.reg sr1).toInt - 1 ∧ BitwiseFlags t (t.reg dr) ∧
      (t.flags.z = true ↔ (s.reg sr1).toInt = -1) ∧ (t.flags.n = true ↔ 0 ≤ (s.reg sr1).toInt) ∧
      SameRegsBut dr s t ∧ SameMem s t ∧ t.pc = s.pc ∧ SameLatches s t ∧ AtFetch t ∧ statusOf (.not dr sr1) s = .ok

/-- R170: BR. The latches kept are the model's choice D8 (log 12). -/
def Obligations.BrAlwaysBranches : Prop :=
  ∀ (imm : Int) (s : State),
    ∃ t, exec (.br imm) s = .next t ∧ t.pc.toInt = (s.pc.toInt + imm + 2 ^ 31) % 2 ^ 32 - 2 ^ 31 ∧
      SameRegs s t ∧ SameMem s t ∧ t.sw = s.sw ∧ SameLatches s t ∧ AtFetch t ∧ statusOf (.br imm) s = .ok

/-- R171: BRZ. The latches kept are the model's choice D8 (log 12). -/
def Obligations.BrzBranchesIfZero : Prop :=
  ∀ (imm : Int) (s : State),
    ∃ t, exec (.brz imm) s = .next t ∧
      (if s.flags.z = true then t.pc.toInt = (s.pc.toInt + imm + 2 ^ 31) % 2 ^ 32 - 2 ^ 31 else t.pc = s.pc) ∧
      SameRegs s t ∧ SameMem s t ∧ t.sw = s.sw ∧ SameLatches s t ∧ AtFetch t ∧ statusOf (.brz imm) s = .ok

/-- R24: from an advanced PC the sum of a taken branch, BR or BRZ, is never changed by the truncation. -/
def Obligations.BranchSumNeverWraps : Prop :=
  ∀ (s : State) (imm : Int), fitsSigned 27 imm = true → 1 ≤ s.pc.toInt → s.pc.toInt ≤ 100 →
    (∃ t, exec (.br imm) s = .next t ∧ t.pc.toInt = s.pc.toInt + imm) ∧
    (s.flags.z = true → ∃ t, exec (.brz imm) s = .next t ∧ t.pc.toInt = s.pc.toInt + imm)

/-- R172: HALT. A step in Halt that changes nothing is the model's choice D9 (log 13), the latches kept D8 (log 12). -/
def Obligations.HaltStopsTheMachine : Prop :=
  ∀ s : State,
    (∀ w : Word, w.extractLsb' 27 5 = 29#5 → decode s.params.opcodes w = some .halt) ∧
    ∃ t, exec .halt s = .next t ∧ t.macrostate = .halt ∧ t.microstate = .m0 ∧ SameRegs s t ∧ SameMem s t ∧
      t.sw = s.sw ∧ t.pc = s.pc ∧ SameLatches s t ∧ statusOf .halt s = .ok ∧ step t = .next t

/-- R173: each of the 21 unrecognized opcodes, whatever OP_BR and OP_BRZ are (log 6). -/
def Obligations.UnrecognizedOpcodesDoNothing : Prop :=
  ∀ (i : Instr) (s : State), i ∈ noOperations →
    ∃ t, exec i s = .next t ∧ SameRegs s t ∧ SameMem s t ∧ t.sw = s.sw ∧ t.pc = s.pc ∧ SameLatches s t ∧ AtFetch t ∧
      statusOf i s = .noOperation

/-! ### Anomalies and the trace record -/

/-- R200, R201, R206: which instruction reports which anomaly, and never two. -/
def Obligations.AnomaliesAreReported : Prop :=
  ∀ (i : Instr) (s : State),
    (statusOf i s = .addressOutOfBounds ↔
      ∃ dr sr1 imm, (i = .ld dr sr1 imm ∨ i = .st dr sr1 imm) ∧
        ((effectiveAddress (s.reg sr1) imm).toInt < 0 ∨ 100 ≤ (effectiveAddress (s.reg sr1) imm).toInt)) ∧
    (statusOf i s = .noOperation ↔
      (i.opcode s.params.opcodes).toNat ∉ [1, 2, 4, 8, 9, 10, 11, 12, 29] ∧
      i.opcode s.params.opcodes ≠ s.params.opcodes.opBr ∧ i.opcode s.params.opcodes ≠ s.params.opcodes.opBrz) ∧
    (mnemonicOf i = none ↔ statusOf i s = .noOperation)

/-- R187, in the three-field form of D17 (log 17): the record of a cycle carries the whole fetched word, and a cycle
whose guard fails has none. -/
def Obligations.TraceRecordOfACycle : Prop :=
  (∀ (s : State) (i : Instr), AtFetch s → PCInMemory s →
    decode s.params.opcodes (s.mem.read s.pc.toInt.toNat) = some i →
    ∃ u, step s = exec i u ∧ u.regs = s.regs ∧
      stepRecord s = some { mnemonic := mnemonicOf i, status := statusOf i u, ir := s.mem.read s.pc.toInt.toNat }) ∧
  (∀ s : State, AtFetch s → ¬ PCInMemory s → stepRecord s = none)

/-! ### Reset, the host, whole runs -/

/-- R40, R180: what construction leaves, for every parameter, INIT_REGS and INIT_MEM (SW by D12, log 5; Microstate by
D7, log 11). -/
def Obligations.ResetLeavesTheTable : Prop :=
  ∀ (params : Config.Params) (initRegs : Vector Word 16) (initMem : Memory),
    ∃ s, State.construct params initRegs initMem = s ∧ s.params = params ∧ s.regs = initRegs ∧ s.mem = initMem ∧
      s.pc = 0 ∧ s.ir = 0 ∧ s.mar = 0 ∧ s.mdr = 0 ∧ s.aluA = 0 ∧ s.aluB = 0 ∧ s.aluR = 0 ∧ s.sw = 0 ∧ AtFetch s

/-- R39 at reset, for every parameter, INIT_REGS and INIT_MEM. -/
def Obligations.ResetMeetsTheInvariant : Prop :=
  ∀ (params : Config.Params) (initRegs : Vector Word 16) (initMem : Memory), initMem.wf = true →
    CoreInv (State.construct params initRegs initMem)

/-- R7, R8: no step, no micro-step and no request of the host changes a parameter (log 25). -/
def Obligations.ParametersNeverChange : Prop :=
  ∀ s t : State,
    (microStep s = .next t → t.params = s.params) ∧ (step s = .next t → t.params = s.params) ∧
    (∀ words, loadProgram words s = .next t → t.params = s.params) ∧
    (∀ fill, resetMemory fill s = .next t → t.params = s.params) ∧
    (∀ polls records, run polls s = (records, .next t) → t.params = s.params)

/-- R39: every micro-step keeps the invariant, inside a cycle too. -/
def Obligations.MicroStepKeepsTheInvariant : Prop :=
  ∀ s t : State, CoreInv s → microStep s = .next t → CoreInv t

/-- R39: every step keeps the invariant. -/
def Obligations.StepKeepsTheInvariant : Prop :=
  ∀ s t : State, CoreInv s → step s = .next t → CoreInv t

/-- The host's writes keep the invariant too. -/
def Obligations.HostWritesKeepTheInvariant : Prop :=
  ∀ s t : State, CoreInv s →
    (∀ words, loadProgram words s = .next t → CoreInv t) ∧ (∀ fill, resetMemory fill s = .next t → CoreInv t)

/-- R181 with D10 (log 14): what `loadProgram` writes, what it leaves, and what it refuses. -/
def Obligations.LoadProgramWritesFromIndexZero : Prop :=
  ∀ (words : List Word) (s : State), s.mem.wf = true →
    (words.length ≤ 100 → s.atBoundary = true →
      ∃ t, loadProgram words s = .next t ∧ t.pc = 0 ∧
        (∀ k w, words[k]? = some w → t.mem.read k = w) ∧ (∀ k, words.length ≤ k → t.mem.read k = s.mem.read k) ∧
        SameRegs s t ∧ t.sw = s.sw ∧ SameLatches s t ∧ t.macrostate = s.macrostate ∧ t.microstate = s.microstate) ∧
    (100 < words.length → loadProgram words s = .refused .programTooLong) ∧
    (words.length ≤ 100 → s.atBoundary = false → loadProgram words s = .refused .insideCycle)

/-- R182 with D11 (log 15): `reset-memory` writes every memory word and nothing else. -/
def Obligations.ResetMemoryWritesEveryWord : Prop :=
  ∀ (fill : Vector Word 100) (s : State), s.mem.wf = true → s.atBoundary = true →
    ∃ t, resetMemory fill s = .next t ∧ (∀ k : Fin 100, t.mem.read k = fill[k]) ∧ SameRegs s t ∧ t.sw = s.sw ∧
      t.pc = s.pc ∧ SameLatches s t ∧ t.macrostate = s.macrostate ∧ t.microstate = s.microstate

/-- R184, R185: `run` is exactly a sequence of steps. Every step it takes starts out of Halt, after a poll of `cancel`
that reads false, and returns that step's record. It ends where the polls end, where a poll reads true, or in Halt, and
where a step stops it answers that stop. -/
def Obligations.RunIsASequenceOfSteps : Prop :=
  ∀ (polls : List Bool) (s : State) (records : List (Option TraceRecord)) (r : Result), run polls s = (records, r) →
    (∀ k, k < records.length →
      polls[k]? = some false ∧
      ∃ u, runSteps k s = .next u ∧ u.macrostate ≠ .halt ∧ records[k]? = some (stepRecord u)) ∧
    runSteps records.length s = r ∧
    (∀ t, r = .next t →
      records.length = polls.length ∨ polls[records.length]? = some true ∨ t.macrostate = .halt)

/-- R26, R28 to R32, D3: N, C, V, the places of the flags and the datapath registers other than PC are read by no
instruction: two runs that start alike but for them stay alike but for them, step by step, and fault alike. -/
def Obligations.UnreadStateNeverMatters : Prop :=
  ∀ (n : Nat) (s t : State), s.atBoundary = true → SameForPrograms s t →
    (∀ s', runSteps n s = .next s' → ∃ t', runSteps n t = .next t' ∧ SameForPrograms s' t') ∧
    (∀ e, runSteps n s = .fault e → runSteps n t = .fault e)

/-- R240: a run in which no step moves PC backward or leaves it in place ends within 101 cycles. -/
def Obligations.ForwardRunsEndWithin101Cycles : Prop :=
  ∀ s : State, AtFetch s → 0 ≤ s.pc.toInt →
    (∀ k u v, runSteps k s = .next u → step u = .next v → v.macrostate = .halt ∨ u.pc.toInt < v.pc.toInt) →
    ∃ t, runSteps 101 s = .next t ∧ t.macrostate = .halt

/-- The model's own placement of one instruction (log 19): the very next step fetches and runs it. -/
def Obligations.PlacedWordRunsNext : Prop :=
  ∀ (s : State) (w : Word) (i : Instr), s.mem.wf = true → decode s.params.opcodes w = some i →
    ∃ u, step (s.withFetchWord 32 w.toNat) = exec i u ∧ u.ir = w ∧ SameRegs s u ∧ u.sw = s.sw ∧
      (PCInMemory s → u.pc.toInt = s.pc.toInt + 1)
end

