-- ==== Sys2Proof/Laws/State.lean ====
section
/-! SUPPORT. The fields of a state after each named update, so that no proof unfolds a record update. -/

namespace Sys2Proof.Laws

open Sys2Proof.Machine

section writeReg
variable (s : State) (r : RegIdx) (v : Word)
@[simp] theorem State.writeReg_regs : (s.writeReg r v).regs = s.regs.set r v := rfl
@[simp] theorem State.writeReg_mem : (s.writeReg r v).mem = s.mem := rfl
@[simp] theorem State.writeReg_pc : (s.writeReg r v).pc = s.pc := rfl
@[simp] theorem State.writeReg_ir : (s.writeReg r v).ir = s.ir := rfl
@[simp] theorem State.writeReg_mar : (s.writeReg r v).mar = s.mar := rfl
@[simp] theorem State.writeReg_mdr : (s.writeReg r v).mdr = s.mdr := rfl
@[simp] theorem State.writeReg_aluA : (s.writeReg r v).aluA = s.aluA := rfl
@[simp] theorem State.writeReg_aluB : (s.writeReg r v).aluB = s.aluB := rfl
@[simp] theorem State.writeReg_aluR : (s.writeReg r v).aluR = s.aluR := rfl
@[simp] theorem State.writeReg_sw : (s.writeReg r v).sw = s.sw := rfl
@[simp] theorem State.writeReg_macrostate : (s.writeReg r v).macrostate = s.macrostate := rfl
@[simp] theorem State.writeReg_microstate : (s.writeReg r v).microstate = s.microstate := rfl
@[simp] theorem State.writeReg_dec : (s.writeReg r v).dec = s.dec := rfl
@[simp] theorem State.writeReg_params : (s.writeReg r v).params = s.params := rfl
@[simp] theorem State.writeReg_flags : (s.writeReg r v).flags = s.flags := rfl
end writeReg

section setMem
variable (s : State) (m : Memory)
@[simp] theorem State.setMem_regs : (s.setMem m).regs = s.regs := rfl
@[simp] theorem State.setMem_mem : (s.setMem m).mem = m := rfl
@[simp] theorem State.setMem_pc : (s.setMem m).pc = s.pc := rfl
@[simp] theorem State.setMem_ir : (s.setMem m).ir = s.ir := rfl
@[simp] theorem State.setMem_mar : (s.setMem m).mar = s.mar := rfl
@[simp] theorem State.setMem_mdr : (s.setMem m).mdr = s.mdr := rfl
@[simp] theorem State.setMem_aluA : (s.setMem m).aluA = s.aluA := rfl
@[simp] theorem State.setMem_aluB : (s.setMem m).aluB = s.aluB := rfl
@[simp] theorem State.setMem_aluR : (s.setMem m).aluR = s.aluR := rfl
@[simp] theorem State.setMem_sw : (s.setMem m).sw = s.sw := rfl
@[simp] theorem State.setMem_macrostate : (s.setMem m).macrostate = s.macrostate := rfl
@[simp] theorem State.setMem_microstate : (s.setMem m).microstate = s.microstate := rfl
@[simp] theorem State.setMem_dec : (s.setMem m).dec = s.dec := rfl
@[simp] theorem State.setMem_params : (s.setMem m).params = s.params := rfl
@[simp] theorem State.setMem_reg (q : RegIdx) : (s.setMem m).reg q = s.reg q := rfl
@[simp] theorem State.setMem_flags : (s.setMem m).flags = s.flags := rfl
end setMem

section setPC
variable (s : State) (v : Word)
@[simp] theorem State.setPC_regs : (s.setPC v).regs = s.regs := rfl
@[simp] theorem State.setPC_mem : (s.setPC v).mem = s.mem := rfl
@[simp] theorem State.setPC_pc : (s.setPC v).pc = v := rfl
@[simp] theorem State.setPC_ir : (s.setPC v).ir = s.ir := rfl
@[simp] theorem State.setPC_mar : (s.setPC v).mar = s.mar := rfl
@[simp] theorem State.setPC_mdr : (s.setPC v).mdr = s.mdr := rfl
@[simp] theorem State.setPC_aluA : (s.setPC v).aluA = s.aluA := rfl
@[simp] theorem State.setPC_aluB : (s.setPC v).aluB = s.aluB := rfl
@[simp] theorem State.setPC_aluR : (s.setPC v).aluR = s.aluR := rfl
@[simp] theorem State.setPC_sw : (s.setPC v).sw = s.sw := rfl
@[simp] theorem State.setPC_macrostate : (s.setPC v).macrostate = s.macrostate := rfl
@[simp] theorem State.setPC_microstate : (s.setPC v).microstate = s.microstate := rfl
@[simp] theorem State.setPC_dec : (s.setPC v).dec = s.dec := rfl
@[simp] theorem State.setPC_params : (s.setPC v).params = s.params := rfl
@[simp] theorem State.setPC_reg (q : RegIdx) : (s.setPC v).reg q = s.reg q := rfl
@[simp] theorem State.setPC_flags : (s.setPC v).flags = s.flags := rfl
end setPC

section setSW
variable (s : State) (v : Word)
@[simp] theorem State.setSW_regs : (s.setSW v).regs = s.regs := rfl
@[simp] theorem State.setSW_mem : (s.setSW v).mem = s.mem := rfl
@[simp] theorem State.setSW_pc : (s.setSW v).pc = s.pc := rfl
@[simp] theorem State.setSW_ir : (s.setSW v).ir = s.ir := rfl
@[simp] theorem State.setSW_mar : (s.setSW v).mar = s.mar := rfl
@[simp] theorem State.setSW_mdr : (s.setSW v).mdr = s.mdr := rfl
@[simp] theorem State.setSW_aluA : (s.setSW v).aluA = s.aluA := rfl
@[simp] theorem State.setSW_aluB : (s.setSW v).aluB = s.aluB := rfl
@[simp] theorem State.setSW_aluR : (s.setSW v).aluR = s.aluR := rfl
@[simp] theorem State.setSW_sw : (s.setSW v).sw = v := rfl
@[simp] theorem State.setSW_macrostate : (s.setSW v).macrostate = s.macrostate := rfl
@[simp] theorem State.setSW_microstate : (s.setSW v).microstate = s.microstate := rfl
@[simp] theorem State.setSW_dec : (s.setSW v).dec = s.dec := rfl
@[simp] theorem State.setSW_params : (s.setSW v).params = s.params := rfl
@[simp] theorem State.setSW_reg (q : RegIdx) : (s.setSW v).reg q = s.reg q := rfl
end setSW

section setFlags
variable (s : State) (x : Int)
@[simp] theorem State.setFlags_regs : (s.setFlags x).regs = s.regs := rfl
@[simp] theorem State.setFlags_mem : (s.setFlags x).mem = s.mem := rfl
@[simp] theorem State.setFlags_pc : (s.setFlags x).pc = s.pc := rfl
@[simp] theorem State.setFlags_ir : (s.setFlags x).ir = s.ir := rfl
@[simp] theorem State.setFlags_mar : (s.setFlags x).mar = s.mar := rfl
@[simp] theorem State.setFlags_mdr : (s.setFlags x).mdr = s.mdr := rfl
@[simp] theorem State.setFlags_aluA : (s.setFlags x).aluA = s.aluA := rfl
@[simp] theorem State.setFlags_aluB : (s.setFlags x).aluB = s.aluB := rfl
@[simp] theorem State.setFlags_aluR : (s.setFlags x).aluR = s.aluR := rfl
@[simp] theorem State.setFlags_sw : (s.setFlags x).sw = pack s.params.flagLayout (deriveFlags x) := rfl
@[simp] theorem State.setFlags_macrostate : (s.setFlags x).macrostate = s.macrostate := rfl
@[simp] theorem State.setFlags_microstate : (s.setFlags x).microstate = s.microstate := rfl
@[simp] theorem State.setFlags_dec : (s.setFlags x).dec = s.dec := rfl
@[simp] theorem State.setFlags_params : (s.setFlags x).params = s.params := rfl
@[simp] theorem State.setFlags_reg (q : RegIdx) : (s.setFlags x).reg q = s.reg q := rfl
end setFlags

section goto
variable (s : State) (m : Macrostate) (k : Microstate)
@[simp] theorem State.goto_regs : (s.goto m k).regs = s.regs := rfl
@[simp] theorem State.goto_mem : (s.goto m k).mem = s.mem := rfl
@[simp] theorem State.goto_pc : (s.goto m k).pc = s.pc := rfl
@[simp] theorem State.goto_ir : (s.goto m k).ir = s.ir := rfl
@[simp] theorem State.goto_mar : (s.goto m k).mar = s.mar := rfl
@[simp] theorem State.goto_mdr : (s.goto m k).mdr = s.mdr := rfl
@[simp] theorem State.goto_aluA : (s.goto m k).aluA = s.aluA := rfl
@[simp] theorem State.goto_aluB : (s.goto m k).aluB = s.aluB := rfl
@[simp] theorem State.goto_aluR : (s.goto m k).aluR = s.aluR := rfl
@[simp] theorem State.goto_sw : (s.goto m k).sw = s.sw := rfl
@[simp] theorem State.goto_macrostate : (s.goto m k).macrostate = m := rfl
@[simp] theorem State.goto_microstate : (s.goto m k).microstate = k := rfl
@[simp] theorem State.goto_dec : (s.goto m k).dec = s.dec := rfl
@[simp] theorem State.goto_params : (s.goto m k).params = s.params := rfl
@[simp] theorem State.goto_reg (q : RegIdx) : (s.goto m k).reg q = s.reg q := rfl
@[simp] theorem State.goto_flags : (s.goto m k).flags = s.flags := rfl
end goto

section fetched
variable (s : State) (w : Word)
@[simp] theorem State.fetched_regs : (s.fetched w).regs = s.regs := rfl
@[simp] theorem State.fetched_mem : (s.fetched w).mem = s.mem := rfl
@[simp] theorem State.fetched_pc : (s.fetched w).pc = truncate32 (s.pc.toInt + 1) := rfl
@[simp] theorem State.fetched_ir : (s.fetched w).ir = w := rfl
@[simp] theorem State.fetched_mar : (s.fetched w).mar = s.pc := rfl
@[simp] theorem State.fetched_mdr : (s.fetched w).mdr = s.mdr := rfl
@[simp] theorem State.fetched_aluA : (s.fetched w).aluA = s.pc := rfl
@[simp] theorem State.fetched_aluB : (s.fetched w).aluB = s.aluB := rfl
@[simp] theorem State.fetched_aluR : (s.fetched w).aluR = s.aluR := rfl
@[simp] theorem State.fetched_sw : (s.fetched w).sw = s.sw := rfl
@[simp] theorem State.fetched_macrostate : (s.fetched w).macrostate = .execute := rfl
@[simp] theorem State.fetched_microstate : (s.fetched w).microstate = .m0 := rfl
@[simp] theorem State.fetched_dec : (s.fetched w).dec = decodeFields w := rfl
@[simp] theorem State.fetched_params : (s.fetched w).params = s.params := rfl
@[simp] theorem State.fetched_reg (q : RegIdx) : (s.fetched w).reg q = s.reg q := rfl
@[simp] theorem State.fetched_flags : (s.fetched w).flags = s.flags := rfl
end fetched

section fetch0
variable (s : State)
@[simp] theorem fetch0_regs : (fetch0 s).regs = s.regs := rfl
@[simp] theorem fetch0_mem : (fetch0 s).mem = s.mem := rfl
@[simp] theorem fetch0_pc : (fetch0 s).pc = s.pc := rfl
@[simp] theorem fetch0_ir : (fetch0 s).ir = s.ir := rfl
@[simp] theorem fetch0_mar : (fetch0 s).mar = s.pc := rfl
@[simp] theorem fetch0_mdr : (fetch0 s).mdr = s.mdr := rfl
@[simp] theorem fetch0_aluA : (fetch0 s).aluA = s.aluA := rfl
@[simp] theorem fetch0_aluB : (fetch0 s).aluB = s.aluB := rfl
@[simp] theorem fetch0_aluR : (fetch0 s).aluR = s.aluR := rfl
@[simp] theorem fetch0_sw : (fetch0 s).sw = s.sw := rfl
@[simp] theorem fetch0_macrostate : (fetch0 s).macrostate = s.macrostate := rfl
@[simp] theorem fetch0_microstate : (fetch0 s).microstate = .m1 := rfl
@[simp] theorem fetch0_dec : (fetch0 s).dec = s.dec := rfl
@[simp] theorem fetch0_params : (fetch0 s).params = s.params := rfl
end fetch0

section fetch1
variable (s : State)
@[simp] theorem fetch1_regs : (fetch1 s).regs = s.regs := rfl
@[simp] theorem fetch1_mem : (fetch1 s).mem = s.mem := rfl
@[simp] theorem fetch1_pc : (fetch1 s).pc = s.pc := rfl
@[simp] theorem fetch1_ir : (fetch1 s).ir = s.ir := rfl
@[simp] theorem fetch1_mar : (fetch1 s).mar = s.mar := rfl
@[simp] theorem fetch1_mdr : (fetch1 s).mdr = s.mdr := rfl
@[simp] theorem fetch1_aluA : (fetch1 s).aluA = s.pc := rfl
@[simp] theorem fetch1_aluB : (fetch1 s).aluB = s.aluB := rfl
@[simp] theorem fetch1_aluR : (fetch1 s).aluR = s.aluR := rfl
@[simp] theorem fetch1_sw : (fetch1 s).sw = s.sw := rfl
@[simp] theorem fetch1_macrostate : (fetch1 s).macrostate = s.macrostate := rfl
@[simp] theorem fetch1_microstate : (fetch1 s).microstate = .m2 := rfl
@[simp] theorem fetch1_dec : (fetch1 s).dec = s.dec := rfl
@[simp] theorem fetch1_params : (fetch1 s).params = s.params := rfl
end fetch1

section fetch3
variable (s : State)
@[simp] theorem fetch3_regs : (fetch3 s).regs = s.regs := rfl
@[simp] theorem fetch3_mem : (fetch3 s).mem = s.mem := rfl
@[simp] theorem fetch3_pc : (fetch3 s).pc = truncate32 (s.aluA.toInt + 1) := rfl
@[simp] theorem fetch3_ir : (fetch3 s).ir = s.ir := rfl
@[simp] theorem fetch3_mar : (fetch3 s).mar = s.mar := rfl
@[simp] theorem fetch3_mdr : (fetch3 s).mdr = s.mdr := rfl
@[simp] theorem fetch3_aluA : (fetch3 s).aluA = s.aluA := rfl
@[simp] theorem fetch3_aluB : (fetch3 s).aluB = s.aluB := rfl
@[simp] theorem fetch3_aluR : (fetch3 s).aluR = s.aluR := rfl
@[simp] theorem fetch3_sw : (fetch3 s).sw = s.sw := rfl
@[simp] theorem fetch3_macrostate : (fetch3 s).macrostate = s.macrostate := rfl
@[simp] theorem fetch3_microstate : (fetch3 s).microstate = .exit := rfl
@[simp] theorem fetch3_dec : (fetch3 s).dec = s.dec := rfl
@[simp] theorem fetch3_params : (fetch3 s).params = s.params := rfl
end fetch3

section fetchExit
variable (s : State)
@[simp] theorem fetchExit_regs : (fetchExit s).regs = s.regs := rfl
@[simp] theorem fetchExit_mem : (fetchExit s).mem = s.mem := rfl
@[simp] theorem fetchExit_pc : (fetchExit s).pc = s.pc := rfl
@[simp] theorem fetchExit_ir : (fetchExit s).ir = s.ir := rfl
@[simp] theorem fetchExit_mar : (fetchExit s).mar = s.mar := rfl
@[simp] theorem fetchExit_mdr : (fetchExit s).mdr = s.mdr := rfl
@[simp] theorem fetchExit_aluA : (fetchExit s).aluA = s.aluA := rfl
@[simp] theorem fetchExit_aluB : (fetchExit s).aluB = s.aluB := rfl
@[simp] theorem fetchExit_aluR : (fetchExit s).aluR = s.aluR := rfl
@[simp] theorem fetchExit_sw : (fetchExit s).sw = s.sw := rfl
@[simp] theorem fetchExit_macrostate : (fetchExit s).macrostate = .decode := rfl
@[simp] theorem fetchExit_microstate : (fetchExit s).microstate = .m0 := rfl
@[simp] theorem fetchExit_dec : (fetchExit s).dec = s.dec := rfl
@[simp] theorem fetchExit_params : (fetchExit s).params = s.params := rfl
end fetchExit

section decodeStep
variable (s : State)
@[simp] theorem decodeStep_regs : (decodeStep s).regs = s.regs := rfl
@[simp] theorem decodeStep_mem : (decodeStep s).mem = s.mem := rfl
@[simp] theorem decodeStep_pc : (decodeStep s).pc = s.pc := rfl
@[simp] theorem decodeStep_ir : (decodeStep s).ir = s.ir := rfl
@[simp] theorem decodeStep_mar : (decodeStep s).mar = s.mar := rfl
@[simp] theorem decodeStep_mdr : (decodeStep s).mdr = s.mdr := rfl
@[simp] theorem decodeStep_aluA : (decodeStep s).aluA = s.aluA := rfl
@[simp] theorem decodeStep_aluB : (decodeStep s).aluB = s.aluB := rfl
@[simp] theorem decodeStep_aluR : (decodeStep s).aluR = s.aluR := rfl
@[simp] theorem decodeStep_sw : (decodeStep s).sw = s.sw := rfl
@[simp] theorem decodeStep_macrostate : (decodeStep s).macrostate = .execute := rfl
@[simp] theorem decodeStep_microstate : (decodeStep s).microstate = .m0 := rfl
@[simp] theorem decodeStep_dec : (decodeStep s).dec = decodeFields s.ir := rfl
@[simp] theorem decodeStep_params : (decodeStep s).params = s.params := rfl
end decodeStep

/-- Reading a register after writing one: every register is ordinary storage (R20). -/
@[simp] theorem State.writeReg_reg (s : State) (r : RegIdx) (v : Word) (q : RegIdx) :
    (s.writeReg r v).reg q = if q = r then v else s.reg q := by
  simp [State.writeReg, State.reg, Vector.getElem_set, Fin.ext_iff, eq_comm]

end Sys2Proof.Laws
end

