-- ==== Sys2Proof/Laws/Alu.lean ====
section
/-! SUPPORT. The ALU's operations bit by bit and as integers. -/

namespace Sys2Proof.Laws

open Sys2Proof.Machine

@[simp] theorem getLsbD_bitAnd (a b : Word) (k : Nat) : (bitAnd a b).getLsbD k = (a.getLsbD k && b.getLsbD k) :=
  BitVec.getLsbD_and

@[simp] theorem getLsbD_bitOr (a b : Word) (k : Nat) : (bitOr a b).getLsbD k = (a.getLsbD k || b.getLsbD k) :=
  BitVec.getLsbD_or

/-- `bitNot` is the library's complement (R106). -/
theorem bitNot_eq_not (a : Word) : bitNot a = ~~~a := by
  unfold bitNot
  rw [show (0xFFFFFFFF#32) = BitVec.allOnes 32 by decide, BitVec.xor_allOnes]

/-- `truncate32` is the identity on Words (R101). -/
@[simp] theorem truncate32_toInt (w : Word) : truncate32 w.toInt = w := BitVec.ofInt_toInt

end Sys2Proof.Laws
end

