-- ==== Sys2Proof/Laws/Decode.lean ====
section
/-! SUPPORT. Bit fields of an encoded word. -/

namespace Sys2Proof.Laws

/-- `sext` agrees with the library's two's-complement reading of a field (R100). -/
theorem sext_eq_toInt {n : Nat} (f : BitVec n) : sext f = f.toInt := by
  cases n with
  | zero => rw [BitVec.of_length_zero (x := f)]; rfl
  | succ n =>
    have h := f.isLt
    have hp : 2 ^ (n + 1) = 2 * 2 ^ n := by rw [Nat.pow_succ]; omega
    unfold sext
    rw [BitVec.toInt_eq_msb_cond, BitVec.msb_eq_decide]
    simp only [Nat.add_sub_cancel, decide_eq_true_eq]
    split
    · next hm =>
      have : f.toNat % 2 ^ n = f.toNat - 2 ^ n := by
        rw [Nat.mod_eq_sub_mod hm, Nat.mod_eq_of_lt (by omega)]
      omega
    · next hm => rw [Nat.mod_eq_of_lt (by omega)]

/-- The opcode field of an encoded instruction is its row's opcode (R71, R85). -/
@[simp] theorem opcodeField_encode (ops : Config.BranchOpcodes) (i : Instr) :
    opcodeField (encode ops i) = i.opcode ops :=
  BitVec.extractLsb'_append_eq_left

/-- An exchange undoes itself. -/
@[simp] theorem swapOpcodes_swapOpcodes (a b k : BitVec 5) : swapOpcodes a b (swapOpcodes a b k) = k := by
  by_cases h1 : k = a <;> by_cases h2 : k = b <;> simp_all [swapOpcodes]

/-- An exchange leaves every other opcode in its place. -/
theorem swapOpcodes_of_ne {a b k : BitVec 5} (ha : k ≠ a) (hb : k ≠ b) : swapOpcodes a b k = k := by
  simp [swapOpcodes, ha, hb]

/-- Rows and opcodes correspond one to one (R81). -/
@[simp] theorem rowOfOpcode_opcodeOfRow (ops : Config.BranchOpcodes) (row : BitVec 5) :
    rowOfOpcode ops (opcodeOfRow ops row) = row := by
  simp [rowOfOpcode, opcodeOfRow]

@[simp] theorem opcodeOfRow_rowOfOpcode (ops : Config.BranchOpcodes) (opcode : BitVec 5) :
    opcodeOfRow ops (rowOfOpcode ops opcode) = opcode := by
  simp [rowOfOpcode, opcodeOfRow]

/-- BR stands at OP_BR (R81). -/
@[simp] theorem opcodeOfRow_br (ops : Config.BranchOpcodes) : opcodeOfRow ops 16#5 = ops.opBr := by
  have h : swapOpcodes 16#5 ops.opBr ops.opBrz ≠ 16#5 := by
    unfold swapOpcodes
    split
    · next h1 => exact fun h2 => ops.valid.1 (by rw [h1, h2])
    · split
      · next h1 => exact absurd h1.symm ops.valid.1
      · next h1 _ => exact h1
  rw [opcodeOfRow, swapOpcodes_of_ne (a := 17#5) (by decide) h.symm]
  simp [swapOpcodes]

/-- BRZ stands at OP_BRZ (R81). -/
@[simp] theorem opcodeOfRow_brz (ops : Config.BranchOpcodes) : opcodeOfRow ops 17#5 = ops.opBrz := by
  rw [opcodeOfRow, show ∀ b, swapOpcodes 17#5 b 17#5 = b from fun b => if_pos rfl, swapOpcodes_swapOpcodes]

/-- The rows whose numbers the source gives do not move (R8, R81). -/
theorem opcodeOfRow_fixed (ops : Config.BranchOpcodes) {row : BitVec 5} (h : row.toNat ∈ Config.fixedOpcodes) :
    opcodeOfRow ops row = row := by
  have h1 : row ≠ ops.opBr := fun e => ops.valid.2.1 (e ▸ h)
  have h2 : row ≠ ops.opBrz := fun e => ops.valid.2.2 (e ▸ h)
  have h3 : row ≠ 16#5 := by rintro rfl; revert h; decide
  have h4 : row ≠ 17#5 := by rintro rfl; revert h; decide
  have h5 : row ≠ swapOpcodes 16#5 ops.opBr ops.opBrz := by
    unfold swapOpcodes
    split
    · exact h1
    · split
      · exact h3
      · exact h2
  rw [opcodeOfRow, swapOpcodes_of_ne h4 h5, swapOpcodes_of_ne h3 h1]

theorem rowOfOpcode_fixed (ops : Config.BranchOpcodes) {opcode : BitVec 5} (h : opcode.toNat ∈ Config.fixedOpcodes) :
    rowOfOpcode ops opcode = opcode := by
  rw [← opcodeOfRow_fixed ops h, rowOfOpcode_opcodeOfRow, opcodeOfRow_fixed ops h]

@[simp] theorem rowOfOpcode_br (ops : Config.BranchOpcodes) : rowOfOpcode ops ops.opBr = 16#5 := by
  rw [← opcodeOfRow_br, rowOfOpcode_opcodeOfRow]

@[simp] theorem rowOfOpcode_brz (ops : Config.BranchOpcodes) : rowOfOpcode ops ops.opBrz = 17#5 := by
  rw [← opcodeOfRow_brz, rowOfOpcode_opcodeOfRow]

/-- An opcode that no format row names has Format 4 (R72). -/
theorem formatOf_of_not_fixed {opcode : BitVec 5} (h : opcode.toNat ∉ Config.fixedOpcodes) : formatOf opcode = .f4 := by
  unfold formatOf
  split <;> simp_all [Config.fixedOpcodes]

/-- A row that the source numbers is selected by its own number only. -/
theorem rowOfOpcode_eq_of_fixed (ops : Config.BranchOpcodes) {opcode : BitVec 5}
    (h : (rowOfOpcode ops opcode).toNat ∈ Config.fixedOpcodes) : rowOfOpcode ops opcode = opcode := by
  conv_rhs => rw [← opcodeOfRow_rowOfOpcode ops opcode, opcodeOfRow_fixed ops h]

/-- The format that an opcode selects is the format of its row: the rows that move all have Format 4 (R72, R81). -/
theorem formatOf_rowOfOpcode (ops : Config.BranchOpcodes) (opcode : BitVec 5) :
    formatOf (rowOfOpcode ops opcode) = formatOf opcode := by
  by_cases h : opcode.toNat ∈ Config.fixedOpcodes
  · rw [rowOfOpcode_fixed ops h]
  · rw [formatOf_of_not_fixed h, formatOf_of_not_fixed]
    intro hr
    rw [rowOfOpcode_eq_of_fixed ops hr] at hr
    exact h hr

/-- Under the defaults every row stands at its own number. -/
@[simp] theorem rowOfOpcode_default (opcode : BitVec 5) : rowOfOpcode Config.defaultBranchOpcodes opcode = opcode := by
  have same : ∀ a k : BitVec 5, swapOpcodes a a k = k := by
    intro a k
    unfold swapOpcodes
    split <;> simp_all
  have h : swapOpcodes 16#5 16#5 17#5 = 17#5 := same _ _
  simp [rowOfOpcode, Config.defaultBranchOpcodes, same]

@[simp] theorem decodeFields_opcode (w : Word) : (decodeFields w).opcode = opcodeField w := by
  unfold decodeFields
  split <;> rfl

/-- `decode`, by the row that the word's opcode selects. -/
theorem decode_eq_ofRow (ops : Config.BranchOpcodes) (w : Word) :
    decode ops w = (decodeFields w).ofRow (rowOfOpcode ops (opcodeField w)) := by
  simp [decode, Decoded.toInstr]

/-- Register index and 4-bit field are the same 16 values. -/
theorem toFin_regBits (r : RegIdx) : ((regBits r).extractLsb' 0 4).toFin = r := by
  rw [BitVec.extractLsb'_eq_self]; rfl

/-- The fields of a word laid out in Format 1 (R73). -/
theorem fields_f1 (op : BitVec 5) (d : RegIdx) (m : BitVec 23) :
    drField (op ++ (regBits d ++ m)) = d ∧ (op ++ (regBits d ++ m)).extractLsb' 0 23 = m := by
  constructor
  · exact (congrArg BitVec.toFin ((BitVec.extractLsb'_append_eq_of_add_le (by decide)).trans
      (BitVec.extractLsb'_append_eq_of_le (by decide)))).trans (toFin_regBits d)
  · exact (BitVec.extractLsb'_append_eq_of_add_le (by decide)).trans BitVec.extractLsb'_append_eq_right

/-- The fields of a word laid out in Format 2 (R74). -/
theorem fields_f2 (op : BitVec 5) (d s : RegIdx) (m : BitVec 19) :
    drField (op ++ (regBits d ++ regBits s ++ m)) = d ∧ sr1Field (op ++ (regBits d ++ regBits s ++ m)) = s ∧
      (op ++ (regBits d ++ regBits s ++ m)).extractLsb' 0 19 = m := by
  refine ⟨?_, ?_, ?_⟩
  · exact (congrArg BitVec.toFin ((BitVec.extractLsb'_append_eq_of_add_le (by decide)).trans
      ((BitVec.extractLsb'_append_eq_of_le (by decide)).trans
        (BitVec.extractLsb'_append_eq_of_le (by decide))))).trans (toFin_regBits d)
  · exact (congrArg BitVec.toFin ((BitVec.extractLsb'_append_eq_of_add_le (by decide)).trans
      ((BitVec.extractLsb'_append_eq_of_le (by decide)).trans
        (BitVec.extractLsb'_append_eq_of_add_le (by decide))))).trans (toFin_regBits s)
  · exact (BitVec.extractLsb'_append_eq_of_add_le (by decide)).trans BitVec.extractLsb'_append_eq_right

/-- The fields of a word laid out in Format 3 (R75). -/
theorem fields_f3 (op : BitVec 5) (d s t : RegIdx) (m : BitVec 15) :
    drField (op ++ (regBits d ++ regBits s ++ regBits t ++ m)) = d ∧
      sr1Field (op ++ (regBits d ++ regBits s ++ regBits t ++ m)) = s ∧
      sr2Field (op ++ (regBits d ++ regBits s ++ regBits t ++ m)) = t := by
  refine ⟨?_, ?_, ?_⟩
  · exact (congrArg BitVec.toFin ((BitVec.extractLsb'_append_eq_of_add_le (by decide)).trans
      ((BitVec.extractLsb'_append_eq_of_le (by decide)).trans ((BitVec.extractLsb'_append_eq_of_le (by decide)).trans
        (BitVec.extractLsb'_append_eq_of_le (by decide)))))).trans (toFin_regBits d)
  · exact (congrArg BitVec.toFin ((BitVec.extractLsb'_append_eq_of_add_le (by decide)).trans
      ((BitVec.extractLsb'_append_eq_of_le (by decide)).trans ((BitVec.extractLsb'_append_eq_of_le (by decide)).trans
        (BitVec.extractLsb'_append_eq_of_add_le (by decide)))))).trans (toFin_regBits s)
  · exact (congrArg BitVec.toFin ((BitVec.extractLsb'_append_eq_of_add_le (by decide)).trans
      ((BitVec.extractLsb'_append_eq_of_le (by decide)).trans
        (BitVec.extractLsb'_append_eq_of_add_le (by decide))))).trans (toFin_regBits t)

/-- The immediate of a word laid out in Format 4 (R76). -/
theorem fields_f4 (op : BitVec 5) (m : BitVec 27) : (op ++ m).extractLsb' 0 27 = m :=
  BitVec.extractLsb'_append_eq_right

/-- An immediate in its field's range is read back from the field (R85, R86). -/
theorem sext_ofInt {n : Nat} {v : Int} (hn : 1 ≤ n) (h : fitsSigned n v = true) : sext (BitVec.ofInt n v) = v := by
  simp only [fitsSigned, Bool.and_eq_true, decide_eq_true_eq] at h
  rw [sext_eq_toInt]
  exact BitVec.toInt_ofInt_eq_self (by omega) h.1 h.2

end Sys2Proof.Laws
end

