-- ==== Sys2Proof/Laws/Memory.lean ====
section
/-! SUPPORT. What reading and writing the memory do, and that every memory operation keeps the canonical form (log 1). -/

namespace Sys2Proof.Laws

open Sys2Proof.Machine

theorem wfFrom_cons_iff (lo j : Nat) (w : Word) (m : Memory) :
    Memory.wfFrom lo ((j, w) :: m) = true ↔
      lo ≤ j ∧ j < 100 ∧ w ≠ Config.unlistedWord ∧ Memory.wfFrom (j + 1) m = true := by
  simp [Memory.wfFrom, and_assoc]

theorem wfFrom_mono {lo lo' : Nat} (h : lo' ≤ lo) {m : Memory} (hm : Memory.wfFrom lo m = true) :
    Memory.wfFrom lo' m = true := by
  cases m with
  | nil => rfl
  | cons c m =>
    obtain ⟨hlo, rest⟩ := (wfFrom_cons_iff lo c.1 c.2 m).1 hm
    exact (wfFrom_cons_iff lo' c.1 c.2 m).2 ⟨by omega, rest⟩

/-- An index below every listed one reads as an unlisted word. -/
theorem read_of_lt {m : Memory} {lo i : Nat} (hm : Memory.wfFrom lo m = true) (hi : i < lo) :
    m.read i = Config.unlistedWord := by
  induction m generalizing lo with
  | nil => rfl
  | cons c m ih =>
    obtain ⟨hlo, -, -, rest⟩ := (wfFrom_cons_iff lo c.1 c.2 m).1 hm
    have hne : c.1 ≠ i := by omega
    simpa [Memory.read, hne] using ih rest (by omega)

/-- Putting a cell in front of a memory that lies above it: what each index reads as. -/
theorem read_cons {m : Memory} {i : Nat} (hm : Memory.wfFrom (i + 1) m = true) (w : Word) (k : Nat) :
    (Memory.cons i w m).read k = if k = i then w else m.read k := by
  unfold Memory.cons
  split
  · next h =>
    split
    · next hk => rw [hk, read_of_lt hm (Nat.lt_succ_self i), h]
    · rfl
  · simp [Memory.read, eq_comm]

theorem wfFrom_cons {m : Memory} {lo i : Nat} (hm : Memory.wfFrom (i + 1) m = true) (w : Word) (hlo : lo ≤ i)
    (hi : i < 100) : Memory.wfFrom lo (Memory.cons i w m) = true := by
  unfold Memory.cons
  split
  · exact wfFrom_mono (by omega) hm
  · next h => exact (wfFrom_cons_iff lo i w m).2 ⟨hlo, hi, h, hm⟩

/-- All that a write does to a memory in canonical form: the index written reads as the word, every other index reads
as before. -/
theorem read_write_from {m : Memory} {lo i : Nat} (hm : Memory.wfFrom lo m = true) (w : Word) (k : Nat) :
    (m.write i w).read k = if k = i then w else m.read k := by
  induction m generalizing lo with
  | nil => exact read_cons (m := []) rfl w k
  | cons c m ih =>
    obtain ⟨-, hj, hw, rest⟩ := (wfFrom_cons_iff lo c.1 c.2 m).1 hm
    simp only [Memory.write]
    split
    · next h => exact read_cons ((wfFrom_cons_iff _ _ _ _).2 ⟨h, hj, hw, rest⟩) w k
    · split
      · next _ h =>
        subst h
        rw [read_cons rest]
        by_cases hk : k = c.1
        · simp [hk]
        · have : c.1 ≠ k := fun e => hk e.symm
          simp [hk, Memory.read, this]
      · next h1 h2 =>
        simp only [Memory.read]
        by_cases hk : c.1 = k
        · have : k ≠ i := by omega
          simp [hk, this]
        · simp [hk, ih rest]

theorem wfFrom_write {m : Memory} {lo i : Nat} (hm : Memory.wfFrom lo m = true) (w : Word) (hlo : lo ≤ i)
    (hi : i < 100) : Memory.wfFrom lo (m.write i w) = true := by
  induction m generalizing lo with
  | nil => exact wfFrom_cons (m := []) rfl w hlo hi
  | cons c m ih =>
    obtain ⟨hc, hj, hw, rest⟩ := (wfFrom_cons_iff lo c.1 c.2 m).1 hm
    simp only [Memory.write]
    split
    · next h => exact wfFrom_cons ((wfFrom_cons_iff _ _ _ _).2 ⟨h, hj, hw, rest⟩) w hlo hi
    · split
      · next _ h => exact h ▸ wfFrom_cons rest w (h ▸ hlo) (h ▸ hi)
      · next h1 h2 => exact (wfFrom_cons_iff _ _ _ _).2 ⟨hc, hj, hw, ih rest (by omega)⟩

theorem read_write {m : Memory} (hm : m.wf = true) (i : Nat) (w : Word) (k : Nat) :
    (m.write i w).read k = if k = i then w else m.read k :=
  read_write_from hm w k

/-- A write of an index of the memory keeps the canonical form. -/
theorem wf_write {m : Memory} (hm : m.wf = true) {i : Nat} (hi : i < 100) (w : Word) : (m.write i w).wf = true :=
  wfFrom_write hm w (Nat.zero_le i) hi

/-- A bulk write that stays inside the memory keeps the canonical form. -/
theorem wf_writeAll {m : Memory} (hm : m.wf = true) {i : Nat} {words : List Word} (h : i + words.length ≤ 100) :
    (m.writeAll i words).wf = true := by
  induction words generalizing m i with
  | nil => exact hm
  | cons w words ih =>
    simp only [List.length_cons] at h
    exact ih (wf_write hm (by omega) w) (by omega)

/-- All that a bulk write does: the indices it covers read as its words, every other index as before. -/
theorem read_writeAll {m : Memory} (hm : m.wf = true) {i : Nat} {words : List Word} (h : i + words.length ≤ 100)
    (k : Nat) : (m.writeAll i words).read k = if i ≤ k then (words[k - i]?).getD (m.read k) else m.read k := by
  induction words generalizing m i with
  | nil => simp [Memory.writeAll]
  | cons w words ih =>
    simp only [List.length_cons] at h
    rw [Memory.writeAll, ih (wf_write hm (by omega) w) (by omega), read_write hm]
    rcases Nat.lt_trichotomy k i with hk | hk | hk
    · simp [show ¬ i + 1 ≤ k by omega, show k ≠ i by omega, show ¬ i ≤ k by omega]
    · simp [hk]
    · have hs : k - i = (k - (i + 1)) + 1 := by omega
      simp [show i + 1 ≤ k by omega, show k ≠ i by omega, show i ≤ k by omega, hs]

/-- The memory after reset is in canonical form. -/
theorem reset_mem_wf : State.reset.mem.wf = true := rfl

end Sys2Proof.Laws
end

