-- ==== Sys2Proof/Laws/Ops.lean ====
section
/-! SUPPORT. Once for each shared operation, everything it can do; later proofs cite these and unfold nothing. -/

namespace Sys2Proof.Laws

open Sys2Proof.Machine

theorem inBounds_iff (a : Word) : inBounds a = true ↔ 0 ≤ a.toInt ∧ a.toInt < 100 := by
  simp [inBounds]

/-- An address in bounds has the same value signed and unsigned. -/
theorem toNat_of_inBounds {a : Word} (h : inBounds a = true) : (a.toNat : Int) = a.toInt ∧ a.toNat < 100 := by
  have ⟨h0, h1⟩ := (inBounds_iff a).1 h
  have := a.isLt
  rw [BitVec.toInt_eq_toNat_cond] at h0 h1 ⊢
  split at h0 <;> omega

theorem memRead_eq_some {s : State} {a w : Word} :
    s.memRead a = some w ↔ inBounds a = true ∧ w = s.mem.read a.toNat := by
  cases h : inBounds a <;> simp [State.memRead, h]
  exact eq_comm

theorem memRead_eq_none {s : State} {a : Word} : s.memRead a = none ↔ inBounds a = false := by
  unfold State.memRead
  split <;> simp_all

theorem memWrite_eq_some {s t : State} {a v : Word} :
    s.memWrite a v = some t ↔ inBounds a = true ∧ t = s.setMem (s.mem.write a.toNat v) := by
  cases h : inBounds a <;> simp [State.memWrite, h]
  exact eq_comm

theorem memWrite_eq_none {s : State} {a v : Word} : s.memWrite a v = none ↔ inBounds a = false := by
  unfold State.memWrite
  split <;> simp_all

@[simp] theorem toFetch_eq_next {s t : State} : toFetch s = .next t ↔ t = s.goto .fetch .m0 := by
  simp [toFetch, eq_comm]

@[simp] theorem toHalt_eq_next {s t : State} : toHalt s = .next t ↔ t = s.goto .halt .m0 := by
  simp [toHalt, eq_comm]

@[simp] theorem aluResult_eq_next {s t : State} {dr : RegIdx} {x : Int} :
    aluResult s dr x = .next t ↔ t = ((s.setFlags x).writeReg dr (truncate32 x)).goto .fetch .m0 := toFetch_eq_next

@[simp] theorem bitwiseResult_eq_next {s t : State} {dr : RegIdx} {w : Word} :
    bitwiseResult s dr w = .next t ↔ t = ((s.setFlags w.toInt).writeReg dr w).goto .fetch .m0 := toFetch_eq_next

@[simp] theorem branch_eq_next {s t : State} {imm : Int} :
    branch s imm = .next t ↔ t = (s.setPC (branchTarget s.pc imm)).goto .fetch .m0 := toFetch_eq_next

@[simp] theorem noOperation_eq_next {s t : State} : noOperation s = .next t ↔ t = s.goto .fetch .m0 := toFetch_eq_next

/-- Running on after a result answers a next state exactly when both parts do. -/
@[simp] theorem andThen_eq_next {r : Result} {f : State → Result} {t : State} :
    andThen r f = .next t ↔ ∃ u, r = .next u ∧ f u = .next t := by
  cases r <;> simp [andThen]

/-- It faults where a part does. -/
@[simp] theorem andThen_eq_fault {r : Result} {f : State → Result} {e : Fault} :
    andThen r f = .fault e ↔ r = .fault e ∨ ∃ u, r = .next u ∧ f u = .fault e := by
  cases r <;> simp [andThen]

/-- It refuses where a part does. -/
@[simp] theorem andThen_eq_refused {r : Result} {f : State → Result} {e : Refusal} :
    andThen r f = .refused e ↔ r = .refused e ∨ ∃ u, r = .next u ∧ f u = .refused e := by
  cases r <;> simp [andThen]

/-- All that LD does (R151). -/
theorem execLd_eq_next {s t : State} {dr sr1 : RegIdx} {imm : Int} :
    execLd dr sr1 imm s = .next t ↔
      (inBounds (effectiveAddress (s.reg sr1) imm) = true ∧
        t = (s.writeReg dr (s.mem.read (effectiveAddress (s.reg sr1) imm).toNat)).goto .fetch .m0) ∨
      (inBounds (effectiveAddress (s.reg sr1) imm) = false ∧ t = s.goto .fetch .m0) := by
  unfold execLd State.memRead
  cases h : inBounds (effectiveAddress (s.reg sr1) imm) <;> simp

/-- All that ST does (R152). -/
theorem execSt_eq_next {s t : State} {dr sr1 : RegIdx} {imm : Int} :
    execSt dr sr1 imm s = .next t ↔
      (inBounds (effectiveAddress (s.reg sr1) imm) = true ∧
        t = (s.setMem (s.mem.write (effectiveAddress (s.reg sr1) imm).toNat (s.reg dr))).goto .fetch .m0) ∨
      (inBounds (effectiveAddress (s.reg sr1) imm) = false ∧ t = s.goto .fetch .m0) := by
  unfold execSt State.memWrite
  cases h : inBounds (effectiveAddress (s.reg sr1) imm) <;> simp

/-- All that BRZ does (R171). -/
theorem execBrz_eq_next {s t : State} {imm : Int} :
    execBrz imm s = .next t ↔
      (s.flags.z = true ∧ t = (s.setPC (branchTarget s.pc imm)).goto .fetch .m0) ∨
      (s.flags.z = false ∧ t = s.goto .fetch .m0) := by
  unfold execBrz
  cases h : s.flags.z <;> simp

/-- A host write happens at a cycle boundary and nowhere else (R188). -/
theorem hostWrite_eq_next {s t : State} {f : State → State} :
    hostWrite s f = .next t ↔ s.atBoundary = true ∧ t = f s := by
  cases h : s.atBoundary <;> simp [hostWrite, h]
  exact eq_comm

end Sys2Proof.Laws
end

