-- ==== Sys2Proof/Laws/Flags.lean ====
section
/-! SUPPORT. The StatusWord's flags as the generator packs them. -/

namespace Sys2Proof.Laws

open Sys2Proof.Machine

/-- A flag sets its own bit and no other. -/
theorem flagAt_getLsbD (b : Bool) {k : Nat} (hk : k < 32) (j : Nat) : (flagAt b k).getLsbD j = (b && decide (j = k)) := by
  cases b
  · simp [flagAt]
  · by_cases h : j = k
    · subst h
      simp [flagAt, hk]
    · rcases Nat.lt_or_gt_of_ne h with h' | h'
      · simp [flagAt, h, h']
      · simp [flagAt, h, show j - k ≠ 0 by omega]

/-- The places of the flags are four different bits among the top four (R8, R25). -/
theorem flagLayout_cases (l : Config.FlagLayout) :
    (l.swZ ≠ l.swN ∧ l.swZ ≠ l.swC ∧ l.swZ ≠ l.swV ∧ l.swN ≠ l.swC ∧ l.swN ≠ l.swV ∧ l.swC ≠ l.swV) ∧
      (28 ≤ l.swZ ∧ l.swZ < 32) ∧ (28 ≤ l.swN ∧ l.swN < 32) ∧ (28 ≤ l.swC ∧ l.swC < 32) ∧ (28 ≤ l.swV ∧ l.swV < 32) := by
  have ⟨h1, h2⟩ := l.valid
  simp only [List.nodup_cons, List.mem_cons, List.not_mem_nil, List.nodup_nil, not_or, or_false, forall_eq_or_imp,
    forall_eq] at h1 h2
  omega

/-- Every bit of a packed StatusWord (R108). -/
theorem pack_getLsbD (l : Config.FlagLayout) (f : Flags) (j : Nat) :
    (pack l f).getLsbD j =
      (f.z && decide (j = l.swZ) || f.n && decide (j = l.swN) || f.c && decide (j = l.swC) || f.v && decide (j = l.swV)) := by
  have ⟨_, hz, hn, hc, hv⟩ := flagLayout_cases l
  simp [pack, flagAt_getLsbD, hz.2, hn.2, hc.2, hv.2]

/-- The flags of a packed StatusWord are the flags that were packed (R108). -/
@[simp] theorem unpack_pack (l : Config.FlagLayout) (f : Flags) : unpack l (pack l f) = f := by
  have ⟨⟨h1, h2, h3, h4, h5, h6⟩, _⟩ := flagLayout_cases l
  obtain ⟨z, n, c, v⟩ := f
  simp [unpack, pack_getLsbD, h1, h2, h3, h4, h5, h6, h1.symm, h2.symm, h3.symm, h4.symm, h5.symm, h6.symm]

/-- The low 28 bits of a packed StatusWord are zero (R25, R108). -/
@[simp] theorem pack_low (l : Config.FlagLayout) (f : Flags) : (pack l f).extractLsb' 0 28 = 0#28 := by
  have ⟨_, hz, hn, hc, hv⟩ := flagLayout_cases l
  apply BitVec.eq_of_getLsbD_eq
  intro j hj
  simp [hj, pack_getLsbD, show j ≠ l.swZ by omega, show j ≠ l.swN by omega, show j ≠ l.swC by omega,
    show j ≠ l.swV by omega]

@[simp] theorem setFlags_flags (s : State) (x : Int) : (s.setFlags x).flags = deriveFlags x := unpack_pack _ _

/-- A Word's value is in the Word's range. -/
theorem toInt_range (w : Word) : -2147483648 ≤ w.toInt ∧ w.toInt ≤ 2147483647 := by
  have h1 := BitVec.le_toInt w
  have h2 := BitVec.toInt_lt (x := w)
  norm_num at h1 h2
  omega

/-- The value of a bitwise result is a Word, so it sets neither Carryout nor Overflow (R107). -/
@[simp] theorem outOfRange_toInt (w : Word) : outOfRange w.toInt = false := by
  have := toInt_range w
  simp [outOfRange]
  omega

end Sys2Proof.Laws
end

