-- ==== Sys2Proof/Laws/Exec.lean ====
section
/-! SUPPORT. What each arm of `exec` is, in the shared operations: proofs cite these and unfold no meaning. -/

namespace Sys2Proof.Laws

open Sys2Proof.Machine

@[simp] theorem exec_ldi (dr : RegIdx) (imm : Int) (s : State) :
    exec (.ldi dr imm) s = toFetch (s.writeReg dr (truncate32 imm)) := rfl

@[simp] theorem exec_ld (dr sr1 : RegIdx) (imm : Int) (s : State) :
    exec (.ld dr sr1 imm) s = execLd dr sr1 imm s := rfl

@[simp] theorem exec_st (dr sr1 : RegIdx) (imm : Int) (s : State) :
    exec (.st dr sr1 imm) s = execSt dr sr1 imm s := rfl

@[simp] theorem exec_add (dr sr1 sr2 : RegIdx) (s : State) :
    exec (.add dr sr1 sr2) s = aluResult s dr (wideAdd (s.reg sr1) (s.reg sr2)) := rfl

@[simp] theorem exec_sub (dr sr1 sr2 : RegIdx) (s : State) :
    exec (.sub dr sr1 sr2) s = aluResult (s.setSW 0) dr (wideSub (s.reg sr1) (s.reg sr2)) := rfl

@[simp] theorem exec_and (dr sr1 sr2 : RegIdx) (s : State) :
    exec (.and dr sr1 sr2) s = bitwiseResult s dr (bitAnd (s.reg sr1) (s.reg sr2)) := rfl

@[simp] theorem exec_or (dr sr1 sr2 : RegIdx) (s : State) :
    exec (.or dr sr1 sr2) s = bitwiseResult s dr (bitOr (s.reg sr1) (s.reg sr2)) := rfl

@[simp] theorem exec_not (dr sr1 : RegIdx) (s : State) :
    exec (.not dr sr1) s = bitwiseResult s dr (bitNot (s.reg sr1)) := rfl

@[simp] theorem exec_br (imm : Int) (s : State) :
    exec (.br imm) s = branch s imm := rfl

@[simp] theorem exec_brz (imm : Int) (s : State) :
    exec (.brz imm) s = execBrz imm s := rfl

@[simp] theorem exec_halt (s : State) :
    exec .halt s = toHalt s := rfl

@[simp] theorem exec_nopOp0 (s : State) : exec .nopOp0 s = noOperation s := rfl

@[simp] theorem exec_nopOp3 (s : State) : exec .nopOp3 s = noOperation s := rfl

@[simp] theorem exec_nopOp5 (s : State) : exec .nopOp5 s = noOperation s := rfl

@[simp] theorem exec_nopOp6 (s : State) : exec .nopOp6 s = noOperation s := rfl

@[simp] theorem exec_nopOp7 (s : State) : exec .nopOp7 s = noOperation s := rfl

@[simp] theorem exec_nopOp13 (s : State) : exec .nopOp13 s = noOperation s := rfl

@[simp] theorem exec_nopOp14 (s : State) : exec .nopOp14 s = noOperation s := rfl

@[simp] theorem exec_nopOp15 (s : State) : exec .nopOp15 s = noOperation s := rfl

@[simp] theorem exec_nopOp18 (s : State) : exec .nopOp18 s = noOperation s := rfl

@[simp] theorem exec_nopOp19 (s : State) : exec .nopOp19 s = noOperation s := rfl

@[simp] theorem exec_nopOp20 (s : State) : exec .nopOp20 s = noOperation s := rfl

@[simp] theorem exec_nopOp21 (s : State) : exec .nopOp21 s = noOperation s := rfl

@[simp] theorem exec_nopOp22 (s : State) : exec .nopOp22 s = noOperation s := rfl

@[simp] theorem exec_nopOp23 (s : State) : exec .nopOp23 s = noOperation s := rfl

@[simp] theorem exec_nopOp24 (s : State) : exec .nopOp24 s = noOperation s := rfl

@[simp] theorem exec_nopOp25 (s : State) : exec .nopOp25 s = noOperation s := rfl

@[simp] theorem exec_nopOp26 (s : State) : exec .nopOp26 s = noOperation s := rfl

@[simp] theorem exec_nopOp27 (s : State) : exec .nopOp27 s = noOperation s := rfl

@[simp] theorem exec_nopOp28 (s : State) : exec .nopOp28 s = noOperation s := rfl

@[simp] theorem exec_nopOp30 (s : State) : exec .nopOp30 s = noOperation s := rfl

@[simp] theorem exec_nopOp31 (s : State) : exec .nopOp31 s = noOperation s := rfl

end Sys2Proof.Laws
end

