-- ==== Sys2Proof/Laws/PerInstr.lean ====
section
/-! SUPPORT. The statement families that are made once for every instruction. -/

namespace Sys2Proof.Laws

/-- The top five bits of an instruction's word are its row's opcode, whatever its operands (R71, R81, R85). -/
def EncodedOpcode.Statement (i : Instr) : Prop := ∀ ops : Config.BranchOpcodes, (encode ops i).extractLsb' 27 5 = i.opcode ops

theorem EncodedOpcode.nopOp0 : EncodedOpcode.Statement .nopOp0 := fun _ => opcodeField_encode _ _

theorem EncodedOpcode.ldi (dr : RegIdx) (imm : Int) : EncodedOpcode.Statement (.ldi dr imm) := fun _ => opcodeField_encode _ _

theorem EncodedOpcode.ld (dr sr1 : RegIdx) (imm : Int) : EncodedOpcode.Statement (.ld dr sr1 imm) := fun _ => opcodeField_encode _ _

theorem EncodedOpcode.nopOp3 : EncodedOpcode.Statement .nopOp3 := fun _ => opcodeField_encode _ _

theorem EncodedOpcode.st (dr sr1 : RegIdx) (imm : Int) : EncodedOpcode.Statement (.st dr sr1 imm) := fun _ => opcodeField_encode _ _

theorem EncodedOpcode.nopOp5 : EncodedOpcode.Statement .nopOp5 := fun _ => opcodeField_encode _ _

theorem EncodedOpcode.nopOp6 : EncodedOpcode.Statement .nopOp6 := fun _ => opcodeField_encode _ _

theorem EncodedOpcode.nopOp7 : EncodedOpcode.Statement .nopOp7 := fun _ => opcodeField_encode _ _

theorem EncodedOpcode.add (dr sr1 sr2 : RegIdx) : EncodedOpcode.Statement (.add dr sr1 sr2) := fun _ => opcodeField_encode _ _

theorem EncodedOpcode.sub (dr sr1 sr2 : RegIdx) : EncodedOpcode.Statement (.sub dr sr1 sr2) := fun _ => opcodeField_encode _ _

theorem EncodedOpcode.and (dr sr1 sr2 : RegIdx) : EncodedOpcode.Statement (.and dr sr1 sr2) := fun _ => opcodeField_encode _ _

theorem EncodedOpcode.or (dr sr1 sr2 : RegIdx) : EncodedOpcode.Statement (.or dr sr1 sr2) := fun _ => opcodeField_encode _ _

theorem EncodedOpcode.not (dr sr1 : RegIdx) : EncodedOpcode.Statement (.not dr sr1) := fun _ => opcodeField_encode _ _

theorem EncodedOpcode.nopOp13 : EncodedOpcode.Statement .nopOp13 := fun _ => opcodeField_encode _ _

theorem EncodedOpcode.nopOp14 : EncodedOpcode.Statement .nopOp14 := fun _ => opcodeField_encode _ _

theorem EncodedOpcode.nopOp15 : EncodedOpcode.Statement .nopOp15 := fun _ => opcodeField_encode _ _

theorem EncodedOpcode.br (imm : Int) : EncodedOpcode.Statement (.br imm) := fun _ => opcodeField_encode _ _

theorem EncodedOpcode.brz (imm : Int) : EncodedOpcode.Statement (.brz imm) := fun _ => opcodeField_encode _ _

theorem EncodedOpcode.nopOp18 : EncodedOpcode.Statement .nopOp18 := fun _ => opcodeField_encode _ _

theorem EncodedOpcode.nopOp19 : EncodedOpcode.Statement .nopOp19 := fun _ => opcodeField_encode _ _

theorem EncodedOpcode.nopOp20 : EncodedOpcode.Statement .nopOp20 := fun _ => opcodeField_encode _ _

theorem EncodedOpcode.nopOp21 : EncodedOpcode.Statement .nopOp21 := fun _ => opcodeField_encode _ _

theorem EncodedOpcode.nopOp22 : EncodedOpcode.Statement .nopOp22 := fun _ => opcodeField_encode _ _

theorem EncodedOpcode.nopOp23 : EncodedOpcode.Statement .nopOp23 := fun _ => opcodeField_encode _ _

theorem EncodedOpcode.nopOp24 : EncodedOpcode.Statement .nopOp24 := fun _ => opcodeField_encode _ _

theorem EncodedOpcode.nopOp25 : EncodedOpcode.Statement .nopOp25 := fun _ => opcodeField_encode _ _

theorem EncodedOpcode.nopOp26 : EncodedOpcode.Statement .nopOp26 := fun _ => opcodeField_encode _ _

theorem EncodedOpcode.nopOp27 : EncodedOpcode.Statement .nopOp27 := fun _ => opcodeField_encode _ _

theorem EncodedOpcode.nopOp28 : EncodedOpcode.Statement .nopOp28 := fun _ => opcodeField_encode _ _

theorem EncodedOpcode.halt : EncodedOpcode.Statement .halt := fun _ => opcodeField_encode _ _

theorem EncodedOpcode.nopOp30 : EncodedOpcode.Statement .nopOp30 := fun _ => opcodeField_encode _ _

theorem EncodedOpcode.nopOp31 : EncodedOpcode.Statement .nopOp31 := fun _ => opcodeField_encode _ _

end Sys2Proof.Laws
end

