-- ==== Sys2Proof/Laws/Sequencer.lean ====
section
/-! SUPPORT. What a micro-step and a cycle can do, once for each. -/

namespace Sys2Proof.Laws

open Sys2Proof.Machine Sys2Proof.Safety

/-- All that the guard of Fetch can answer. -/
theorem fetchGuard_eq_next {s t : State} {f : State → Result} :
    fetchGuard s f = .next t ↔
      (100 ≤ s.pc.toInt ∧ t = s.goto .halt .m0) ∨ (0 ≤ s.pc.toInt ∧ s.pc.toInt < 100 ∧ f s = .next t) := by
  unfold fetchGuard
  simp only [Nat.cast_ofNat]
  split
  · next h =>
    have : ¬ s.pc.toInt < 100 := by omega
    simp [h, this, eq_comm]
  · next h =>
    split
    · next h' =>
      have : ¬ 0 ≤ s.pc.toInt := by omega
      simp [h, this]
    · next h' =>
      have h0 : 0 ≤ s.pc.toInt := by omega
      have h1 : s.pc.toInt < 100 := by omega
      simp [h, h0, h1]

/-- Inside the memory the guard passes. -/
theorem fetchGuard_pass {s : State} (h : PCInMemory s) (f : State → Result) : fetchGuard s f = f s := by
  have h1 : ¬ (100 : Int) ≤ s.pc.toInt := by have := h.2; omega
  have h0 : ¬ s.pc.toInt < 0 := by have := h.1; omega
  simp [fetchGuard, h0, h1]

theorem inBounds_of_pcInMemory {s : State} (h : PCInMemory s) : inBounds s.pc = true := (inBounds_iff _).2 h

/-- All that Fetch's memory read can answer (R123). -/
theorem fetch2_eq_next {s t : State} :
    fetch2 s = .next t ↔
      inBounds s.pc = true ∧ t = { s with ir := s.mem.read s.pc.toNat, microstate := .m3 } := by
  unfold fetch2 State.memRead
  cases h : inBounds s.pc <;> simp
  exact eq_comm

/-- All that an Execute micro-step can answer (R127). -/
theorem executeStep_eq_next {s t : State} :
    executeStep s = .next t ↔ ∃ i, s.dec.toInstr s.params.opcodes = some i ∧ exec i s = .next t := by
  unfold executeStep
  cases s.dec.toInstr s.params.opcodes <;> simp

/-- All that a micro-step can answer: the rows of R120. -/
theorem microStep_eq_next {s t : State} :
    microStep s = .next t ↔
      (s.macrostate = .fetch ∧ s.microstate = .m0 ∧
        ((100 ≤ s.pc.toInt ∧ t = s.goto .halt .m0) ∨ (PCInMemory s ∧ t = fetch0 s))) ∨
      (s.macrostate = .fetch ∧ s.microstate = .m1 ∧ t = fetch1 s) ∨
      (s.macrostate = .fetch ∧ s.microstate = .m2 ∧ fetch2 s = .next t) ∨
      (s.macrostate = .fetch ∧ s.microstate = .m3 ∧ t = fetch3 s) ∨
      (s.macrostate = .fetch ∧ s.microstate = .exit ∧ t = fetchExit s) ∨
      (s.macrostate = .decode ∧ t = decodeStep s) ∨
      (s.macrostate = .execute ∧ executeStep s = .next t) ∨
      (s.macrostate = .halt ∧ t = s) := by
  unfold microStep
  cases hM : s.macrostate
  · cases hm : s.microstate <;> simp [fetchGuard_eq_next, PCInMemory, and_assoc, eq_comm (b := t)]
  all_goals simp [eq_comm (b := t)]

@[simp] theorem atBoundary_goto_fetch (s : State) : (s.goto .fetch .m0).atBoundary = true := by simp [State.atBoundary]

@[simp] theorem atBoundary_goto_halt (s : State) (k : Microstate) : (s.goto .halt k).atBoundary = true := by
  simp [State.atBoundary]

theorem atBoundary_iff (s : State) : s.atBoundary = true ↔ AtFetch s ∨ s.macrostate = .halt := by
  unfold State.atBoundary AtFetch
  cases s.macrostate <;> simp

/-- The sequencer stops at a boundary. -/
@[simp] theorem toBoundary_of_atBoundary (n : Nat) {s : State} (h : s.atBoundary = true) : toBoundary n s = .next s := by
  cases n <;> simp [toBoundary, h]

/-- Away from a boundary the sequencer goes on. -/
theorem toBoundary_succ {s : State} (h : s.atBoundary = false) (n : Nat) :
    toBoundary (n + 1) s = andThen (microStep s) (toBoundary n) := by
  simp [toBoundary, h]

/-- `runSteps` is the host's own way of running the machine. -/
theorem runSteps_eq_core_run (n : Nat) (s : State) : runSteps n s = core.run n s := by
  induction n generalizing s with
  | zero => rfl
  | succ n ih =>
    simp only [runSteps, Host.Core.run, show core.step s = step s from rfl]
    cases step s with
    | next t => exact ih t
    | fault e => rfl
    | refused e => rfl

end Sys2Proof.Laws
end

