-- ==== Sys2Proof/Tests/Slice0.lean ====
section
/-! SUPPORT. Small tests, their expected values from the spec's own tables and vectors (cited at each), and for every
statement with hypotheses a state that meets them. -/

namespace Sys2Proof.Tests

open Sys2Proof.Machine Sys2Proof.Safety Sys2Proof.Laws

/-! ### WellFormed refuses each ill-formed immediate (R73, R74, R76) -/

theorem test_illFormed_ldi : (Instr.ldi 0 4194304).wellFormed = false ∧ (Instr.ldi 0 (-4194305)).wellFormed = false := by
  decide
theorem test_illFormed_ld : (Instr.ld 0 0 262144).wellFormed = false ∧ (Instr.ld 0 0 (-262145)).wellFormed = false := by
  decide
theorem test_illFormed_st : (Instr.st 0 0 262144).wellFormed = false ∧ (Instr.st 0 0 (-262145)).wellFormed = false := by
  decide
theorem test_illFormed_br : (Instr.br 67108864).wellFormed = false ∧ (Instr.br (-67108865)).wellFormed = false := by
  decide
theorem test_illFormed_brz : (Instr.brz 67108864).wellFormed = false ∧ (Instr.brz (-67108865)).wellFormed = false := by
  decide

/-! ### Decode, on words written out from R73 to R76 and R81 (V1), one at least for every constructor -/

theorem test_decode_ldi : decode Config.defaultBranchOpcodes 0x09FFFFFF#32 = some (.ldi 3 (-1)) := by decide
theorem test_decode_ldi_max : decode Config.defaultBranchOpcodes 0x0FBFFFFF#32 = some (.ldi 15 4194303) := by decide
theorem test_decode_ld : decode Config.defaultBranchOpcodes 0x10800096#32 = some (.ld 1 0 150) := by decide
theorem test_decode_st : decode Config.defaultBranchOpcodes 0x27FFFFFF#32 = some (.st 15 15 (-1)) := by decide
theorem test_decode_add : decode Config.defaultBranchOpcodes 0x41890000#32 = some (.add 3 1 2) := by decide
theorem test_decode_sub : decode Config.defaultBranchOpcodes 0x48890000#32 = some (.sub 1 1 2) := by decide
theorem test_decode_and : decode Config.defaultBranchOpcodes 0x51890000#32 = some (.and 3 1 2) := by decide
theorem test_decode_or : decode Config.defaultBranchOpcodes 0x5A090000#32 = some (.or 4 1 2) := by decide
theorem test_decode_not_ignores_low_bits : decode Config.defaultBranchOpcodes 0x63B7FFFF#32 = some (.not 7 6) := by decide
theorem test_decode_br : decode Config.defaultBranchOpcodes 0x84000000#32 = some (.br (-67108864)) := by decide
theorem test_decode_brz : decode Config.defaultBranchOpcodes 0x88000003#32 = some (.brz 3) := by decide
theorem test_decode_halt : decode Config.defaultBranchOpcodes 0xEFFFFFFF#32 = some (.halt) := by decide
theorem test_decode_nopOp0 : decode Config.defaultBranchOpcodes 0x00000000#32 = some .nopOp0 := by decide
theorem test_decode_nopOp3 : decode Config.defaultBranchOpcodes 0x18000005#32 = some .nopOp3 := by decide
theorem test_decode_nopOp5 : decode Config.defaultBranchOpcodes 0x28000005#32 = some .nopOp5 := by decide
theorem test_decode_nopOp6 : decode Config.defaultBranchOpcodes 0x30000005#32 = some .nopOp6 := by decide
theorem test_decode_nopOp7 : decode Config.defaultBranchOpcodes 0x38000005#32 = some .nopOp7 := by decide
theorem test_decode_nopOp13 : decode Config.defaultBranchOpcodes 0x68000005#32 = some .nopOp13 := by decide
theorem test_decode_nopOp14 : decode Config.defaultBranchOpcodes 0x70000005#32 = some .nopOp14 := by decide
theorem test_decode_nopOp15 : decode Config.defaultBranchOpcodes 0x78000005#32 = some .nopOp15 := by decide
theorem test_decode_nopOp18 : decode Config.defaultBranchOpcodes 0x90000005#32 = some .nopOp18 := by decide
theorem test_decode_nopOp19 : decode Config.defaultBranchOpcodes 0x98000005#32 = some .nopOp19 := by decide
theorem test_decode_nopOp20 : decode Config.defaultBranchOpcodes 0xA0000005#32 = some .nopOp20 := by decide
theorem test_decode_nopOp21 : decode Config.defaultBranchOpcodes 0xA8000005#32 = some .nopOp21 := by decide
theorem test_decode_nopOp22 : decode Config.defaultBranchOpcodes 0xB0000005#32 = some .nopOp22 := by decide
theorem test_decode_nopOp23 : decode Config.defaultBranchOpcodes 0xB8000005#32 = some .nopOp23 := by decide
theorem test_decode_nopOp24 : decode Config.defaultBranchOpcodes 0xC0000005#32 = some .nopOp24 := by decide
theorem test_decode_nopOp25 : decode Config.defaultBranchOpcodes 0xC8000005#32 = some .nopOp25 := by decide
theorem test_decode_nopOp26 : decode Config.defaultBranchOpcodes 0xD0000005#32 = some .nopOp26 := by decide
theorem test_decode_nopOp27 : decode Config.defaultBranchOpcodes 0xD8000005#32 = some .nopOp27 := by decide
theorem test_decode_nopOp28 : decode Config.defaultBranchOpcodes 0xE0000005#32 = some .nopOp28 := by decide
theorem test_decode_nopOp30 : decode Config.defaultBranchOpcodes 0xF0000005#32 = some .nopOp30 := by decide
theorem test_decode_nopOp31 : decode Config.defaultBranchOpcodes 0xF8000005#32 = some .nopOp31 := by decide

/-- Other opcode numbers than the defaults (R81): BR at 20 and BRZ at 16, so that 17 is unassigned. -/
def movedOpcodes : Config.BranchOpcodes := { opBr := 20#5, opBrz := 16#5, valid := by decide }

theorem test_decode_moved_opcodes :
    decode movedOpcodes 0xA0000003#32 = some (.br 3) ∧ decode movedOpcodes 0x80000003#32 = some (.brz 3) ∧
      (decode movedOpcodes 0x88000003#32).map (fun i => decide (i ∈ noOperations)) = some true ∧
      decode movedOpcodes 0xE8000000#32 = some .halt := by decide

theorem test_decodeTableWord : decodeTableWord 32 0x2180000C = some (.st 3 0 12) := by decide

/-! ### Encode (R85 and V1) -/

theorem test_encode_ldi : encode Config.defaultBranchOpcodes (.ldi 0 5) = 0x08000005#32 := by decide
theorem test_encode_ld : encode Config.defaultBranchOpcodes (.ld 15 0 (-1)) = 0x1787FFFF#32 := by decide
theorem test_encode_sub : encode Config.defaultBranchOpcodes (.sub 1 1 2) = 0x48890000#32 := by decide
theorem test_encode_not : encode Config.defaultBranchOpcodes (.not 7 6) = 0x63B00000#32 := by decide
theorem test_encode_br : encode Config.defaultBranchOpcodes (.br (-3)) = 0x87FFFFFD#32 := by decide
theorem test_encode_halt : encode Config.defaultBranchOpcodes (.halt) = 0xE8000000#32 := by decide

/-! ### One step -/

/-- The state after reset but for PC and one memory word at PC. -/
def startAt (pc w : Word) : State := { State.reset with pc := pc, mem := [(pc.toNat, w)] }

/-- At index 0 with one word there and R1, R2 given. -/
def twoRegs (w a b : Word) : State := ((startAt 0 w).writeReg 1 a).writeReg 2 b

/-- The next state, or reset where there is none. -/
def nextOf (r : Result) : State :=
  match r with
  | .next t => t
  | .fault _ => State.reset
  | .refused _ => State.reset

/-- The state after one step. -/
def after (s : State) : State := nextOf (step s)

/-- R160, first row. -/
theorem test_add_overflows :
    (after (twoRegs 0x41890000#32 0x7FFFFFFF#32 1#32)).reg 3 = 0x80000000#32 ∧ (after (twoRegs 0x41890000#32 0x7FFFFFFF#32 1#32)).sw = 0x30000000#32 := by
  decide
/-- R160, third row: the stored word is 0 and Z is clear. -/
theorem test_add_wide_flags :
    (after (twoRegs 0x41890000#32 0x80000000#32 0x80000000#32)).reg 3 = 0#32 ∧ (after (twoRegs 0x41890000#32 0x80000000#32 0x80000000#32)).sw = 0x70000000#32 := by
  decide
/-- R161, first row (S4). -/
theorem test_sub_equal_sets_zero :
    (after (twoRegs 0x49890000#32 5#32 5#32)).reg 3 = 0#32 ∧ (after (twoRegs 0x49890000#32 5#32 5#32)).sw = 0x80000000#32 := by
  decide
/-- R161, third row. -/
theorem test_sub_operand_order :
    (after (twoRegs 0x49890000#32 1#32 3#32)).reg 3 = 0xFFFFFFFE#32 ∧ (after (twoRegs 0x49890000#32 1#32 3#32)).sw = 0x40000000#32 := by
  decide
/-- R162. -/
theorem test_and_sign :
    (after (twoRegs 0x51890000#32 0x80000001#32 0xC0000000#32)).reg 3 = 0x80000000#32 ∧ (after (twoRegs 0x51890000#32 0x80000001#32 0xC0000000#32)).sw = 0x40000000#32 := by
  decide
/-- V5. -/
theorem test_and_no_common_bit :
    (after (twoRegs 0x51890000#32 0x55555555#32 0xAAAAAAAA#32)).reg 3 = 0#32 ∧ (after (twoRegs 0x51890000#32 0x55555555#32 0xAAAAAAAA#32)).sw = 0x80000000#32 := by
  decide
/-- V5. -/
theorem test_or_bits :
    (after (twoRegs 0x59890000#32 0x0000F0F0#32 0x00003C3C#32)).reg 3 = 0x0000FCFC#32 ∧ (after (twoRegs 0x59890000#32 0x0000F0F0#32 0x00003C3C#32)).sw = 0x00000000#32 := by
  decide
/-- V5. -/
theorem test_or_all_ones :
    (after (twoRegs 0x59890000#32 0x55555555#32 0xAAAAAAAA#32)).reg 3 = 0xFFFFFFFF#32 ∧ (after (twoRegs 0x59890000#32 0x55555555#32 0xAAAAAAAA#32)).sw = 0x40000000#32 := by
  decide
/-- R164. -/
theorem test_not_bits :
    (after (twoRegs 0x61880000#32 0x00003030#32 0#32)).reg 3 = 0xFFFFCFCF#32 ∧ (after (twoRegs 0x61880000#32 0x00003030#32 0#32)).sw = 0x40000000#32 := by
  decide
/-- R164, S6. -/
theorem test_not_ignores_low_bits :
    (after (twoRegs 0x618FFFFF#32 0xFFFFFFFF#32 0#32)).reg 3 = 0#32 ∧ (after (twoRegs 0x618FFFFF#32 0xFFFFFFFF#32 0#32)).sw = 0x80000000#32 := by
  decide
/-- V4: the destination is both sources. -/
theorem test_add_doubles : (after (twoRegs 0x40888000#32 7#32 0#32)).reg 1 = 14#32 := by decide
/-- V6. -/
theorem test_ldi_negative : (after (startAt 0 0x0FC00000#32)).reg 15 = 0xFFC00000#32 := by decide
/-- V6: loading zero sets no flag. -/
theorem test_ldi_sets_no_flag : (after { startAt 0 0x08000000#32 with sw := 0x70000000#32 }).sw = 0x70000000#32 := by decide
/-- V7, aliasing: the base is read before the destination is written. -/
theorem test_ld_base_is_destination :
    (after { startAt 0 0x10880000#32 with mem := [(0, 0x10880000#32), (10, 77#32)],
                                          regs := (Vector.replicate 16 0#32).set 1 10#32 }).reg 1 = 77#32 := by decide
/-- S5: an out-of-bounds LD leaves its destination and reports. -/
theorem test_ld_out_of_bounds :
    (after (twoRegs 0x10800096#32 1234#32 0#32)).reg 1 = 1234#32 ∧
      stepRecord (twoRegs 0x10800096#32 1234#32 0#32) =
        some { mnemonic := some .ld, status := .addressOutOfBounds, ir := 0x10800096#32 } := by decide
/-- V7: ST R2, R2, 0 with R2 = 20. -/
theorem test_st_own_base : (after (twoRegs 0x21100000#32 0#32 20#32)).mem.read 20 = 20#32 := by decide
/-- V7: 200 - 100 is address 100, out of bounds. -/
theorem test_st_at_100_skips :
    (after (twoRegs 0x2117FF9C#32 0#32 200#32)).mem = [(0, 0x2117FF9C#32)] := by decide
/-- V8. -/
theorem test_br_back : (after (startAt 4 0x87FFFFFD#32)).pc = 2#32 := by decide
/-- V8: a negative target is stored; the next Fetch faults. -/
theorem test_br_negative : (after (startAt 0 0x87FFFFFE#32)).pc = 0xFFFFFFFF#32 := by decide
/-- V8. -/
theorem test_brz_taken : (after { startAt 7 0x88000003#32 with sw := 0x80000000#32 }).pc = 11#32 := by decide
/-- V8. -/
theorem test_brz_not_taken : (after { startAt 7 0x88000003#32 with sw := 0x70000000#32 }).pc = 8#32 := by decide
/-- V8. -/
theorem test_halt :
    (after (startAt 1 0xEFFFFFFF#32)).macrostate = .halt ∧ (after (startAt 1 0xEFFFFFFF#32)).pc = 2#32 := by decide
/-- V8: an unassigned opcode, with its status. -/
theorem test_no_operation :
    (after (startAt 3 0xFFFFFFFF#32)).pc = 4#32 ∧
      stepRecord (startAt 3 0xFFFFFFFF#32) = some { mnemonic := none, status := .noOperation, ir := 0xFFFFFFFF#32 } := by
  decide
/-- V9, micro-steps 1 to 7, and P1: what the first cycle leaves. -/
theorem test_first_cycle_of_p1 :
    let t := after { State.reset with mem := [(0, 0x08000005#32), (1, 0xE8000000#32)] }
    t.pc = 1#32 ∧ t.ir = 0x08000005#32 ∧ t.mar = 0#32 ∧ t.aluA = 0#32 ∧ t.reg 0 = 5#32 ∧ t.microstate = .m0 := by decide
/-- V10: three words loaded, then PC and memory. -/
theorem test_loadProgram :
    (nextOf (loadProgram [7#32, 0#32, 9#32] { startAt 2 5#32 with sw := 0x80000000#32 })).mem = [(0, 7#32), (2, 9#32)] ∧
      (nextOf (loadProgram [7#32] (startAt 2 5#32))).pc = 0#32 := by decide
/-- R186, D18: the snapshot reads the memory word by word. -/
theorem test_snapshot : (snapshot (startAt 2 5#32)).map (fun v => v.memory[2]?) = some (some 5#32) := by decide

/-- Other places of the flags than the defaults (R8, D3): Z = 28, N = 29, C = 30, V = 31. -/
def reversedFlags : Config.FlagLayout := { swZ := 28, swN := 29, swC := 30, swV := 31, valid := by decide }

/-- R108 and R8: SUB of equal registers sets SW_Z, wherever it is, and BRZ at its own number reads it. -/
theorem test_other_parameters :
    (after { twoRegs 0x49890000#32 5#32 5#32 with params := ⟨movedOpcodes, reversedFlags⟩ }).sw = 0x10000000#32 ∧
      (after { startAt 7 0x80000003#32 with sw := 0x10000000#32, params := ⟨movedOpcodes, reversedFlags⟩ }).pc = 11#32 := by
  decide

/-! ### States that meet the hypotheses of the statements -/

theorem pcInMemory_startAt_0 (w : Word) : PCInMemory (startAt 0 w) := ⟨by show (0 : Int) ≤ (0#32).toInt; decide, by show (0#32).toInt < 100; decide⟩
theorem pcInMemory_startAt_99 (w : Word) : PCInMemory (startAt 99 w) := ⟨by show (0 : Int) ≤ (99#32).toInt; decide, by show (99#32).toInt < 100; decide⟩
theorem atFetch_startAt (pc w : Word) : AtFetch (startAt pc w) := ⟨rfl, rfl⟩

theorem witness_signExtension : 2 ≤ 23 ∧ (0x400000#23).toNat = 2 ^ 22 ∧ (0x3FFFFF#23).toNat = 2 ^ 22 - 1 := by decide
theorem witness_signExtensionRoundTrip : 1 ≤ 19 ∧ sext 0x7FFFF#19 = -1 := by decide
/-- A word of each branch of the format table, at its first and last opcodes. -/
theorem witness_decodeFollowsTheFormats :
    (decodeFields 0x0FC00000#32).format = .f1 ∧ (decodeFields 0x1787FFFF#32).format = .f2 ∧
      (decodeFields 0x63B7FFFF#32).format = .f2 ∧ (decodeFields 0x40000000#32).format = .f3 ∧
      (decodeFields 0x5FFFFFFF#32).format = .f3 ∧ (decodeFields 0#32).format = .f4 ∧
      (decodeFields 0xFFFFFFFF#32).format = .f4 := by decide
theorem witness_decodeEncodeAgree :
    (Instr.ldi 15 (-4194304)).wellFormed = true ∧ (Instr.br 67108863).wellFormed = true := by decide
theorem witness_encodeDecode : decode Config.defaultBranchOpcodes 0x63B7FFFF#32 = some (.not 7 6) := by decide
/-- A word for each clause, the opcodes 0 and 31 of the last one at the ends of the range. -/
theorem witness_branchOpcodesMoveTheirRows :
    (0xA0000003#32).extractLsb' 27 5 = movedOpcodes.opBr ∧ (0x80000003#32).extractLsb' 27 5 = movedOpcodes.opBrz ∧
      ((0xE8000000#32).extractLsb' 27 5).toNat ∈ Config.fixedOpcodes ∧
      ((0xFFFFFFFF#32).extractLsb' 27 5).toNat ∉ Config.fixedOpcodes ∧ ((0#32).extractLsb' 27 5).toNat ∉ Config.fixedOpcodes ∧
      (0xFFFFFFFF#32).extractLsb' 27 5 ≠ movedOpcodes.opBr ∧ (0#32).extractLsb' 27 5 ≠ movedOpcodes.opBrz := by decide
/-- Two different words for each kind of ignored bits. -/
theorem witness_ignoredBits_f3 :
    opcodeField 0x41897FFF#32 = opcodeField 0x41890000#32 ∧
      (0x41897FFF#32).extractLsb' 15 12 = (0x41890000#32).extractLsb' 15 12 ∧ (0x41897FFF#32) ≠ (0x41890000#32) ∧
      (opcodeField 0x41897FFF#32).toNat ∈ [8, 9, 10, 11] := by decide
theorem witness_ignoredBits_not :
    opcodeField 0x63B7FFFF#32 = opcodeField 0x63B00000#32 ∧
      (0x63B7FFFF#32).extractLsb' 19 8 = (0x63B00000#32).extractLsb' 19 8 ∧ (0x63B7FFFF#32) ≠ (0x63B00000#32) ∧
      (opcodeField 0x63B7FFFF#32).toNat = 12 := by decide
theorem witness_ignoredBits_f4 :
    opcodeField 0xEFFFFFFF#32 = opcodeField 0xE8000000#32 ∧ (opcodeField 0xEFFFFFFF#32).toNat = 29 := by decide
theorem witness_ignoredBits_all_read :
    (opcodeField 0x08000005#32).toNat ∈ [1, 2, 4] ∧
      opcodeField 0x88000003#32 = Config.defaultBranchOpcodes.opBrz := by decide
/-- The boundary addresses of both clauses. -/
theorem witness_memoryPrimitives :
    State.reset.mem.wf = true ∧ 0 ≤ (0#32).toInt ∧ (99#32).toInt < 100 ∧ (0xFFFFFFFF#32).toInt < 0 ∧ 100 ≤ (100#32).toInt := by
  decide
theorem witness_memoryForm : Memory.wf [(0, 5#32), (99, 7#32)] = true ∧ Memory.wf [(1, 0#32)] = false := by decide
theorem witness_loadReturnsTheStoredWord :
    State.reset.mem.wf = true ∧ inBounds (effectiveAddress (State.reset.reg 0) 99) = true ∧
      effectiveAddress (State.reset.reg 3) 99 = effectiveAddress (State.reset.reg 0) 99 := by decide
theorem witness_storedWordIsFetchedNext :
    (startAt 99 1#32).mem.wf = true ∧ PCInMemory (startAt 99 1#32) ∧
      effectiveAddress ((startAt 99 1#32).reg 0) 99 = (startAt 99 1#32).pc ∧
      decode Config.defaultBranchOpcodes ((startAt 99 1#32).reg 0) = some .nopOp0 :=
  ⟨by decide, pcInMemory_startAt_99 _, by decide, by decide⟩
theorem witness_stepRuns_first : AtFetch (startAt 0 0x08000005#32) ∧ PCInMemory (startAt 0 0x08000005#32) ∧
    decode Config.defaultBranchOpcodes ((startAt 0 0x08000005#32).mem.read (startAt 0 0x08000005#32).pc.toInt.toNat) = some (.ldi 0 5) :=
  ⟨atFetch_startAt _ _, pcInMemory_startAt_0 _, by decide⟩
theorem witness_stepRuns_last : AtFetch (startAt 99 0x63B7FFFF#32) ∧ PCInMemory (startAt 99 0x63B7FFFF#32) ∧
    decode Config.defaultBranchOpcodes ((startAt 99 0x63B7FFFF#32).mem.read (startAt 99 0x63B7FFFF#32).pc.toInt.toNat) = some (.not 7 6) :=
  ⟨atFetch_startAt _ _, pcInMemory_startAt_99 _, by decide⟩
/-- A state for each row of the transition table. -/
theorem witness_microStepTable_guard :
    100 ≤ (startAt 100 1#32).pc.toInt ∧ (startAt 0xFFFFFFFF 1#32).pc.toInt < 0 ∧ AtFetch (startAt 100 1#32) ∧
      AtFetch (startAt 0xFFFFFFFF 1#32) := ⟨by decide, by decide, ⟨rfl, rfl⟩, ⟨rfl, rfl⟩⟩
theorem witness_microStepTable_fetch :
    (fetch0 (startAt 0 1#32)).macrostate = .fetch ∧ (fetch0 (startAt 0 1#32)).microstate = .m1 ∧
      (fetch1 (startAt 0 1#32)).macrostate = .fetch ∧ (fetch1 (startAt 0 1#32)).microstate = .m2 ∧
      PCInMemory (fetch1 (startAt 0 1#32)) ∧ ((startAt 0 1#32).goto .fetch .m3).macrostate = .fetch ∧
      ((startAt 0 1#32).goto .fetch .m3).microstate = .m3 ∧ ((startAt 0 1#32).goto .fetch .m3).aluA.toInt < 2 ^ 31 - 1 ∧
      (fetch3 (startAt 0 1#32)).macrostate = .fetch ∧ (fetch3 (startAt 0 1#32)).microstate = .exit :=
  ⟨rfl, rfl, rfl, rfl, pcInMemory_startAt_0 1#32, rfl, rfl, by decide, rfl, rfl⟩
theorem witness_microStepTable_rest :
    (fetchExit (startAt 0 1#32)).macrostate = .decode ∧ (fetchExit (startAt 0 1#32)).microstate = .m0 ∧
      (decodeStep (startAt 0 1#32)).macrostate = .execute ∧ (decodeStep (startAt 0 1#32)).dec.toInstr Config.defaultBranchOpcodes = some .nopOp0 ∧
      ((startAt 0 1#32).goto .halt .m0).macrostate = .halt := by decide
theorem witness_cycle : AtFetch State.reset ∧ PCInMemory State.reset :=
  ⟨⟨rfl, rfl⟩, pcInMemory_startAt_0 0⟩
theorem witness_step : ∃ t, step (startAt 0 0x08000005#32) = .next t ∧ t.reg 0 = 5#32 := ⟨_, rfl, by decide⟩
theorem witness_pcExhaustion : AtFetch (startAt 100 1#32) ∧ 100 ≤ (startAt 100 1#32).pc.toInt ∧
    AtFetch (startAt 0x7FFFFFFF 1#32) ∧ 100 ≤ (startAt 0x7FFFFFFF 1#32).pc.toInt :=
  ⟨⟨rfl, rfl⟩, by decide, ⟨rfl, rfl⟩, by decide⟩

theorem coreInv_startAt (pc : Word) (w : Word) (h : Memory.wf [(pc.toNat, w)] = true) : CoreInv (startAt pc w) where
  mem_wf := h
  sw_low := by show (0#32).extractLsb' 0 28 = 0#28; decide
  carry_eq_overflow := by rw [show (startAt pc w).flags = unpack Config.defaultFlagLayout 0#32 from rfl]; decide
  zero_excludes := by
    rw [show (startAt pc w).flags = unpack Config.defaultFlagLayout 0#32 from rfl]
    decide
  micro_zero := fun _ => rfl
  fetching := fun _ => trivial
  decoded := fun h => absurd h (by show Macrostate.fetch ≠ Macrostate.execute; decide)

/-- One state of each clause: a PC of -1 at Fetch, and one that goes on. The memory is canonical in both. -/
theorem witness_onlyNegativePCFaults :
    CoreInv { startAt 0 1#32 with pc := 0xFFFFFFFF#32 } ∧ ({ startAt 0 1#32 with pc := 0xFFFFFFFF#32 } : State).pc.toInt < 0 ∧
      AtFetch { startAt 0 1#32 with pc := 0xFFFFFFFF#32 } ∧ CoreInv (startAt 99 1#32) ∧
      ¬ (AtFetch (startAt 99 1#32) ∧ (startAt 99 1#32).pc.toInt < 0) := by
  have h := coreInv_startAt 0 1#32 rfl
  exact ⟨⟨h.mem_wf, h.sw_low, h.carry_eq_overflow, h.zero_excludes, h.micro_zero, fun _ => trivial, h.decoded⟩, by decide,
    ⟨rfl, rfl⟩, coreInv_startAt 99 1#32 rfl, fun hc => absurd hc.2 (by decide)⟩
theorem witness_microStepKeepsTheInvariant :
    CoreInv (startAt 0 1#32) ∧ microStep (startAt 0 1#32) = .next (fetch0 (startAt 0 1#32)) :=
  ⟨coreInv_startAt 0 1#32 rfl, rfl⟩
theorem witness_stepKeepsTheInvariant : CoreInv (startAt 0 1#32) ∧ ∃ t, step (startAt 0 1#32) = .next t :=
  ⟨coreInv_startAt 0 1#32 rfl, _, rfl⟩
theorem witness_hostWrites : CoreInv (startAt 0 1#32) ∧ (∃ t, loadProgram [7#32] (startAt 0 1#32) = .next t) ∧
    ∃ t, resetMemory (Vector.replicate 100 3#32) (startAt 0 1#32) = .next t :=
  ⟨coreInv_startAt 0 1#32 rfl, ⟨_, rfl⟩, _, rfl⟩
theorem witness_resetMeetsTheInvariant : Memory.wf [(0, 1#32), (99, 2#32)] = true := by decide
theorem witness_halt : ((startAt 0 1#32).goto .halt .m0).macrostate = .halt ∧
    ∃ t, loadProgram [7#32] ((startAt 0 1#32).goto .halt .m0) = .next t := ⟨rfl, _, rfl⟩
/-- Both ways into Halt, and a micro-step that is neither. -/
theorem witness_haltIsReached :
    microStep (startAt 100 1#32) = .next ((startAt 100 1#32).goto .halt .m0) ∧
      (∃ t, microStep (decodeStep { startAt 0 1#32 with ir := 0xE8000000#32 }) = .next t ∧ t.macrostate = .halt) ∧
      ∃ t, microStep (startAt 0 1#32) = .next t ∧ t.macrostate = .fetch := ⟨rfl, ⟨_, rfl, rfl⟩, _, rfl, rfl⟩
theorem witness_onlyExecuteWrites :
    (startAt 0 1#32).macrostate ≠ .execute ∧ ∃ t, microStep (startAt 0 1#32) = .next t := ⟨by decide, _, rfl⟩
theorem witness_executeFrames :
    (∃ t, exec (.sub 1 2 3) (startAt 0 1#32) = .next t) ∧ setsFlags (.sub 1 2 3) = true ∧
      (∃ t, exec (.ldi 0 5) (startAt 0 1#32) = .next t) ∧ setsFlags (.ldi 0 5) = false ∧ isBranch (.ldi 0 5) = false :=
  ⟨⟨_, rfl⟩, rfl, ⟨_, rfl⟩, rfl, rfl⟩
theorem witness_ldi : (Instr.ldi 0 (-4194304)).wellFormed = true ∧ (Instr.ldi 15 4194303).wellFormed = true := by decide
/-- The fields that the encoding clauses of LDI, ADD, SUB and HALT ask for, of words of V1. -/
theorem witness_encodingClauses :
    (0x0FC00000#32).extractLsb' 27 5 = 1#5 ∧ ((0x0FC00000#32).extractLsb' 23 4).toNat = 15 ∧
      ((0x0FC00000#32).extractLsb' 0 23).toInt = -4194304 ∧ (0x41897FFF#32).extractLsb' 27 5 = 8#5 ∧
      ((0x48890000#32).extractLsb' 19 4).toNat = 1 ∧ ((0x48890000#32).extractLsb' 15 4).toNat = 2 ∧
      (0x48890000#32).extractLsb' 27 5 = 9#5 ∧ (0xEFFFFFFF#32).extractLsb' 27 5 = 29#5 := by decide
theorem witness_traceRecord_guardFails :
    AtFetch (startAt 100 1#32) ∧ ¬ PCInMemory (startAt 100 1#32) ∧ ¬ PCInMemory { startAt 0 1#32 with pc := -1 } := by
  refine ⟨⟨rfl, rfl⟩, ?_, ?_⟩ <;> unfold PCInMemory <;> decide
/-- Addresses 0 and 99 are in bounds, -1 and 100 are not (V7). -/
theorem witness_ld_st_clauses :
    inBounds (effectiveAddress 50#32 (-50)) = true ∧ inBounds (effectiveAddress 200#32 (-101)) = true ∧
      inBounds (effectiveAddress 50#32 (-51)) = false ∧ inBounds (effectiveAddress 99#32 1) = false ∧
      State.reset.mem.wf = true := by decide
theorem witness_wrappedAddress :
    fitsSigned 19 (-262144) = true ∧ fitsSigned 19 262143 = true ∧
      (effectiveAddress 0x80000000#32 (-262144)).toInt = 2147221504 := by decide
theorem witness_parametersNeverChange : ∃ t, step (startAt 0 1#32) = .next t ∧
    microStep (startAt 0 1#32) = .next (fetch0 (startAt 0 1#32)) ∧
    loadProgram [] (startAt 0 1#32) = .next ((startAt 0 1#32).setPC 0) := ⟨_, rfl, rfl, rfl⟩
theorem witness_brz_clauses :
    ({ startAt 7 0#32 with sw := 0x80000000#32 } : State).flags.z = true ∧ (startAt 7 0#32).flags.z = false := by decide
theorem witness_branchSum :
    ({ startAt 100 0#32 with sw := 0x80000000#32 } : State).flags.z = true ∧
    fitsSigned 27 (-67108864) = true ∧ fitsSigned 27 67108863 = true ∧ 1 ≤ (startAt 1 0#32).pc.toInt ∧
      (startAt 100 0#32).pc.toInt ≤ 100 := by decide
theorem witness_noOperations : Instr.nopOp0 ∈ noOperations ∧ Instr.nopOp31 ∈ noOperations ∧ noOperations.length = 21 := by
  decide
/-- The three clauses of loading: 100 words at a boundary, 101 words, and one word inside a cycle. -/
theorem witness_loadProgram :
    State.reset.mem.wf = true ∧ (List.replicate 100 1#32).length ≤ 100 ∧ State.reset.atBoundary = true ∧
      100 < (List.replicate 101 1#32).length ∧ (fetch0 State.reset).atBoundary = false := by decide
theorem witness_run : run [false, true] (startAt 0 0x08000005#32) =
    ([stepRecord (startAt 0 0x08000005#32)], .next (after (startAt 0 0x08000005#32))) := rfl
/-- A run into the fault: one step, its record, and the stop. -/
theorem witness_run_fault : run [false, false] { startAt 0 1#32 with pc := 0xFFFFFFFF#32 } =
    ([none], .fault .fetchAddressInvalid) := rfl
/-- Two states that differ in the StatusWord, its layout, MDR, MAR and IR only: Z is set in both. -/
theorem witness_unreadState :
    SameForPrograms { startAt 0 0x08000005#32 with sw := 0x80000000#32 }
      { startAt 0 0x08000005#32 with
        sw := 0x30000000#32, mdr := 9#32, mar := 7#32, ir := 1#32, params := ⟨Config.defaultBranchOpcodes, reversedFlags⟩ } ∧
      ({ startAt 0 0x08000005#32 with sw := 0x80000000#32 } : State).atBoundary = true :=
  ⟨⟨rfl, rfl, rfl, by decide, rfl, rfl, rfl⟩, rfl⟩
/-- The host's placement runs from reset. -/
theorem test_withFetchWord : (after (State.reset.withFetchWord 32 0x0B7FFFFF)).reg 6 = 0xFFFFFFFF#32 := by decide
theorem witness_placedWord :
    decode Config.defaultBranchOpcodes 0x08000005#32 = some (.ldi 0 5) ∧ (startAt 0 1#32).mem.wf = true ∧ inBounds (startAt 100 1#32).pc = false := by
  decide

/-- Steps from a state that halts at once: the state itself, then Halt for ever. -/
theorem runSteps_of_halting {s h : State} (hs : step s = .next h) (hh : step h = .next h) (k : Nat) (u : State)
    (hk : runSteps k s = .next u) : u = s ∨ u = h := by
  have stay : ∀ k u, runSteps k h = .next u → u = h := by
    intro k
    induction k with
    | zero => rintro u ⟨⟩; rfl
    | succ k ih =>
      intro u hu
      simp only [runSteps, hh, andThen] at hu
      exact ih u hu
  cases k with
  | zero => cases hk; exact .inl rfl
  | succ k =>
    simp only [runSteps, hs, andThen] at hk
    exact .inr (stay k u hk)

/-- A program whose first word is HALT moves forward only. -/
theorem witness_forwardRuns :
    AtFetch (startAt 0 0xE8000000#32) ∧ 0 ≤ (startAt 0 0xE8000000#32).pc.toInt ∧
      ∀ k u v, runSteps k (startAt 0 0xE8000000#32) = .next u → step u = .next v →
        v.macrostate = .halt ∨ u.pc.toInt < v.pc.toInt := by
  refine ⟨⟨rfl, rfl⟩, by decide, fun k u v hu hv => .inl ?_⟩
  have h0 : step (startAt 0 0xE8000000#32) = .next (after (startAt 0 0xE8000000#32)) := rfl
  have h1 : step (after (startAt 0 0xE8000000#32)) = .next (after (startAt 0 0xE8000000#32)) := rfl
  rcases runSteps_of_halting h0 h1 k u hu with rfl | rfl
  · rw [h0] at hv
    cases hv
    decide
  · rw [h1] at hv
    cases hv
    decide

end Sys2Proof.Tests
end

section
/-! PROOFS. Encoding: what Decode gives in each format (R72 to R78). -/

namespace Sys2Proof.Proofs

open Sys2Proof.Laws

/-! ### The format that an opcode selects, one row of R72's table each -/

theorem formatOf_eq_f1 {opcode : BitVec 5} (h : opcode.toNat = 1) : formatOf opcode = .f1 := by
  simp only [formatOf, h]

theorem formatOf_eq_f2 {opcode : BitVec 5} (h : opcode.toNat ∈ [2, 4, 12]) : formatOf opcode = .f2 := by
  simp only [List.mem_cons, List.not_mem_nil, or_false] at h
  rcases h with h | h | h <;> simp only [formatOf, h]

theorem formatOf_eq_f3 {opcode : BitVec 5} (h : opcode.toNat ∈ [8, 9, 10, 11]) : formatOf opcode = .f3 := by
  simp only [List.mem_cons, List.not_mem_nil, or_false] at h
  rcases h with h | h | h | h <;> simp only [formatOf, h]

/-- Unlike `formatOf_of_not_fixed`, this covers HALT, whose number the source fixes without giving it a format row. -/
theorem formatOf_eq_f4 {opcode : BitVec 5} (h1 : opcode.toNat ≠ 1) (h2 : opcode.toNat ∉ [2, 4, 12])
    (h3 : opcode.toNat ∉ [8, 9, 10, 11]) : formatOf opcode = .f4 := by
  unfold formatOf
  split <;> simp_all

/-! ### The decoded record, one equation for each format -/

/-- The immediate is the library's two's-complement reading of the field (R78, R100). -/
theorem immField_eq_toInt (n : Nat) (w : Word) : immField n w = (w.extractLsb' 0 n).toInt :=
  sext_eq_toInt _

section decodedRecord

variable {w : Word}

theorem decodeFields_of_f1 (h : formatOf (opcodeField w) = .f1) :
    decodeFields w =
      { opcode := opcodeField w, format := .f1, dr := some (drField w), sr1 := none, sr2 := none,
        immed := some (w.extractLsb' 0 23).toInt } := by
  simp only [decodeFields, h, immField_eq_toInt]

theorem decodeFields_of_f2 (h : formatOf (opcodeField w) = .f2) :
    decodeFields w =
      { opcode := opcodeField w, format := .f2, dr := some (drField w), sr1 := some (sr1Field w), sr2 := none,
        immed := some (w.extractLsb' 0 19).toInt } := by
  simp only [decodeFields, h, immField_eq_toInt]

theorem decodeFields_of_f3 (h : formatOf (opcodeField w) = .f3) :
    decodeFields w =
      { opcode := opcodeField w, format := .f3, dr := some (drField w), sr1 := some (sr1Field w),
        sr2 := some (sr2Field w), immed := none } := by
  simp only [decodeFields, h]

theorem decodeFields_of_f4 (h : formatOf (opcodeField w) = .f4) :
    decodeFields w =
      { opcode := opcodeField w, format := .f4, dr := none, sr1 := none, sr2 := none,
        immed := some (w.extractLsb' 0 27).toInt } := by
  simp only [decodeFields, h, immField_eq_toInt]

end decodedRecord

/-- Settles O3: the opcode's place in R77's chain fixes the format, and the format fixes the record. -/
theorem decodeFollowsTheFormats : Obligations.DecodeFollowsTheFormats := by
  intro w
  refine ⟨decodeFields_opcode w, ?_⟩
  split
  case isTrue h1 =>
    rw [decodeFields_of_f1 (formatOf_eq_f1 h1)]
    exact ⟨rfl, rfl, rfl, rfl, rfl⟩
  case isFalse h1 =>
  split
  case isTrue h2 =>
    rw [decodeFields_of_f2 (formatOf_eq_f2 h2)]
    exact ⟨rfl, rfl, rfl, rfl, rfl⟩
  case isFalse h2 =>
  split
  case isTrue h3 =>
    rw [decodeFields_of_f3 (formatOf_eq_f3 h3)]
    exact ⟨rfl, rfl, rfl, rfl, rfl⟩
  case isFalse h3 =>
    rw [decodeFields_of_f4 (formatOf_eq_f4 h1 h2 h3)]
    exact ⟨rfl, rfl, rfl, rfl, rfl⟩

end Sys2Proof.Proofs
end

section
/-! PROOFS. Sign extension, the ALU's integer reading, and the flags (R100 to R107). -/

namespace Sys2Proof.Proofs

open Sys2Proof.Machine Sys2Proof.Laws

/-! ### Sign extension (R100) -/

/-- Half of the field's range, as a power, for a field that has a leading bit. -/
theorem two_pow_eq_two_mul_half {n : Nat} (hn : 1 ≤ n) : 2 ^ n = 2 * 2 ^ (n - 1) := by
  rw [← Nat.pow_succ', Nat.succ_eq_add_one, Nat.sub_add_cancel hn]

theorem sext_eq_ite {n : Nat} (f : BitVec n) (hn : 1 ≤ n) :
    sext f = if f.toNat < 2 ^ (n - 1) then (f.toNat : Int) else (f.toNat : Int) - 2 ^ n := by
  have half : 2 * f.toNat < 2 ^ n ↔ f.toNat < 2 ^ (n - 1) := by
    rw [two_pow_eq_two_mul_half hn]
    omega
  rw [sext_eq_toInt, BitVec.toInt_eq_toNat_cond]
  simp only [half, Nat.cast_pow, Nat.cast_ofNat]

theorem sext_range {n : Nat} (f : BitVec n) : -2 ^ (n - 1) ≤ sext f ∧ sext f ≤ 2 ^ (n - 1) - 1 := by
  rw [sext_eq_toInt]
  exact ⟨BitVec.le_toInt f, Int.le_sub_one_of_lt BitVec.toInt_lt⟩

/-- Settles O1: the formula and the range are those of the library's two's-complement reading, which `sext` is. -/
theorem signExtensionIsTwosComplement : Obligations.SignExtensionIsTwosComplement := by
  refine ⟨fun n f hn => ⟨sext_eq_ite f (Nat.le_of_succ_le hn), sext_range f⟩, ?examples⟩
  case examples => decide

/-! ### The ALU (R101, R106) -/

theorem toInt_truncate32 (x : Int) : (truncate32 x).toInt = (x + 2 ^ 31) % 2 ^ 32 - 2 ^ 31 := by
  unfold truncate32
  rw [BitVec.toInt_ofInt, Int.bmod_def]
  split <;> omega

theorem toNat_truncate32 (x : Int) : ((truncate32 x).toNat : Int) = x % 2 ^ 32 := by
  unfold truncate32
  rw [BitVec.toNat_ofInt, Int.toNat_of_nonneg (Int.emod_nonneg _ (by decide))]
  rfl

/-- Settles O10: both readings of `truncate32`, and on a Word it changes nothing. -/
theorem truncateIsReductionModulo : Obligations.TruncateIsReductionModulo := by
  refine ⟨fun x => ⟨toInt_truncate32 x, toNat_truncate32 x⟩, truncate32_toInt, ?examples⟩
  case examples => decide

@[simp] theorem getLsbD_bitNot (a : Word) {k : Nat} (hk : k < 32) : (bitNot a).getLsbD k = !a.getLsbD k := by
  rw [bitNot_eq_not, BitVec.getLsbD_not, decide_eq_true hk, Bool.true_and]

/-- Complementing turns the pattern `p` into `2^32 - 1 - p` and the sign bit over, so the value `a` becomes `-a - 1`. -/
theorem toInt_bitNot (a : Word) : (bitNot a).toInt = -a.toInt - 1 := by
  have hp := a.isLt
  rw [bitNot_eq_not, BitVec.toInt_eq_toNat_cond, BitVec.toInt_eq_toNat_cond, BitVec.toNat_not]
  split <;> split <;> omega

/-- Settles O11: the bits and the value of a complement. -/
theorem notComplementsEveryBit : Obligations.NotComplementsEveryBit := by
  refine ⟨fun a => ⟨fun _ hk => getLsbD_bitNot a hk, toInt_bitNot a⟩, ?examples⟩
  case examples => decide

/-! ### The flags of a wide value and of a Word (R107) -/

@[simp] theorem deriveFlags_z (x : Int) : (deriveFlags x).z = decide (x = 0) := rfl
@[simp] theorem deriveFlags_n (x : Int) : (deriveFlags x).n = decide (x < 0) := rfl
@[simp] theorem deriveFlags_c (x : Int) : (deriveFlags x).c = outOfRange x := rfl
@[simp] theorem deriveFlags_v (x : Int) : (deriveFlags x).v = outOfRange x := rfl

theorem outOfRange_iff (x : Int) : outOfRange x = true ↔ x > 2 ^ 31 - 1 ∨ x < -2 ^ 31 := by
  simp only [outOfRange, Bool.or_eq_true, decide_eq_true_eq]
  norm_num

theorem toInt_eq_zero_iff (w : Word) : w.toInt = 0 ↔ w = 0 := by
  rw [← BitVec.toInt_inj]
  rfl

/-- A Word is negative when its leading bit is 1. -/
theorem decide_toInt_neg (w : Word) : decide (w.toInt < 0) = w.getLsbD 31 := by
  rw [← BitVec.msb_eq_toInt, BitVec.msb_eq_getLsbD_last]

/-- Settles O12: each flag's condition on the wide value, and then on a Word, which is never out of range. -/
theorem flagsDescribeTheWideValue : Obligations.FlagsDescribeTheWideValue := by
  refine ⟨fun x => ⟨?z, ?n, ?c, rfl⟩, fun w => ⟨outOfRange_toInt w, outOfRange_toInt w, ?zero, ?sign⟩⟩
  case z => rw [deriveFlags_z, decide_eq_true_iff]
  case n => rw [deriveFlags_n, decide_eq_true_iff]
  case c => rw [deriveFlags_c, outOfRange_iff]
  case zero => rw [deriveFlags_z, decide_eq_true_iff, toInt_eq_zero_iff]
  case sign => rw [deriveFlags_n, decide_toInt_neg]

end Sys2Proof.Proofs
end

section
/-! PROOFS. The instruction cycle (R120 to R137): the cycle that ends in Fetch's guard. -/

namespace Sys2Proof.Proofs

open Sys2Proof.Machine Sys2Proof.Laws Sys2Proof.Safety

/-- Going to another macrostate at the microstate already held is a change of Macrostate alone. -/
theorem goto_of_microstate_eq {s : State} {k : Microstate} (h : s.microstate = k) (m : Macrostate) :
    s.goto m k = { s with macrostate := m } := by
  subst h
  rfl

/-- Fetch's micro-step with PC past the last address (R121, R133). -/
theorem microStep_of_pc_exhausted {s : State} (hs : AtFetch s) (hpc : 100 ≤ s.pc.toInt) :
    microStep s = .next { s with macrostate := .halt } := by
  obtain ⟨hfetch, hm0⟩ := hs
  rw [← goto_of_microstate_eq hm0]
  exact microStep_eq_next.2 (.inl ⟨hfetch, hm0, .inl ⟨hpc, rfl⟩⟩)

/-- A micro-step that reaches a cycle boundary is the whole of the step. -/
theorem step_eq_next_of_microStep {s t : State} (h : microStep s = .next t) (ht : t.atBoundary = true) :
    step s = .next t :=
  andThen_eq_next.2 ⟨t, h, toBoundary_of_atBoundary 6 ht⟩

/-- Settles O23: Fetch's first micro-step turns the state to Halt, a cycle boundary, so the step ends there. -/
theorem pcExhaustionHalts : Obligations.PCExhaustionHalts := fun s hs hpc =>
  have halted : ({ s with macrostate := .halt } : State).atBoundary = true := (atBoundary_iff _).2 (.inr rfl)
  ⟨_, step_eq_next_of_microStep (microStep_of_pc_exhausted hs hpc) halted, rfl, rfl⟩

end Sys2Proof.Proofs
end

section
/-! PROOFS. Encoding: what a word stands for under each row of the map, and the encoder as Decode's inverse (R77 to
R86). -/

namespace Sys2Proof.Proofs

open Sys2Proof.Laws Sys2Proof.Safety

/-! ### The 32 instructions and the 32 rows, the 21 no-operations taken together (R81, R82) -/

theorem instr_cases {P : Instr → Prop} (nop : ∀ i ∈ noOperations, P i) (ldi : ∀ dr imm, P (.ldi dr imm))
    (ld : ∀ dr sr1 imm, P (.ld dr sr1 imm)) (st : ∀ dr sr1 imm, P (.st dr sr1 imm))
    (add : ∀ dr sr1 sr2, P (.add dr sr1 sr2)) (sub : ∀ dr sr1 sr2, P (.sub dr sr1 sr2))
    (and : ∀ dr sr1 sr2, P (.and dr sr1 sr2)) (or : ∀ dr sr1 sr2, P (.or dr sr1 sr2))
    (not : ∀ dr sr1, P (.not dr sr1)) (br : ∀ imm, P (.br imm)) (brz : ∀ imm, P (.brz imm)) (halt : P .halt)
    (i : Instr) : P i := by
  cases i with
  | ldi dr imm => exact ldi dr imm
  | ld dr sr1 imm => exact ld dr sr1 imm
  | st dr sr1 imm => exact st dr sr1 imm
  | add dr sr1 sr2 => exact add dr sr1 sr2
  | sub dr sr1 sr2 => exact sub dr sr1 sr2
  | and dr sr1 sr2 => exact and dr sr1 sr2
  | or dr sr1 sr2 => exact or dr sr1 sr2
  | not dr sr1 => exact not dr sr1
  | br imm => exact br imm
  | brz imm => exact brz imm
  | halt => exact halt
  | _ => exact nop _ (by decide)

theorem row_cases : ∀ row : BitVec 5,
    (∃ i ∈ noOperations, i.row = row) ∨ row.toNat ∈ Config.fixedOpcodes ∨ row = 16#5 ∨ row = 17#5 := by decide

theorem fixed_row_cases : ∀ row : BitVec 5, row.toNat ∈ Config.fixedOpcodes →
    row = 1#5 ∨ row = 2#5 ∨ row = 4#5 ∨ row = 8#5 ∨ row = 9#5 ∨ row = 10#5 ∨ row = 11#5 ∨ row = 12#5 ∨ row = 29#5 := by
  decide

section noOperation

variable {i : Instr} (hi : i ∈ noOperations)

include hi

theorem wellFormed_of_noOperation : i.wellFormed = true := by
  revert i; decide

theorem operandBits_of_noOperation : i.operandBits = 0#27 := by
  revert i; decide

theorem row_not_fixed_of_noOperation : i.row.toNat ∉ Config.fixedOpcodes := by
  revert i; decide

theorem row_ne_branch_of_noOperation : i.row ≠ 16#5 ∧ i.row ≠ 17#5 := by
  revert i; decide

theorem ofRow_of_noOperation (d : Decoded) : d.ofRow i.row = some i := by
  fin_cases hi <;> rfl

end noOperation

/-! ### What a word stands for under a row (R77, R81) -/

/-- `RowMeaning w row i`: the row makes the instruction `i` of the fields of `w`. One case for each kind of row. -/
inductive RowMeaning (w : Word) : BitVec 5 → Instr → Prop where
  | nop (i : Instr) (hi : i ∈ noOperations) : RowMeaning w i.row i
  | ldi {dr imm} (hdr : drField w = dr) (himm : immField 23 w = imm) : RowMeaning w 1#5 (.ldi dr imm)
  | ld {dr sr1 imm} (hdr : drField w = dr) (hsr1 : sr1Field w = sr1) (himm : immField 19 w = imm) :
    RowMeaning w 2#5 (.ld dr sr1 imm)
  | st {dr sr1 imm} (hdr : drField w = dr) (hsr1 : sr1Field w = sr1) (himm : immField 19 w = imm) :
    RowMeaning w 4#5 (.st dr sr1 imm)
  | add {dr sr1 sr2} (hdr : drField w = dr) (hsr1 : sr1Field w = sr1) (hsr2 : sr2Field w = sr2) :
    RowMeaning w 8#5 (.add dr sr1 sr2)
  | sub {dr sr1 sr2} (hdr : drField w = dr) (hsr1 : sr1Field w = sr1) (hsr2 : sr2Field w = sr2) :
    RowMeaning w 9#5 (.sub dr sr1 sr2)
  | and {dr sr1 sr2} (hdr : drField w = dr) (hsr1 : sr1Field w = sr1) (hsr2 : sr2Field w = sr2) :
    RowMeaning w 10#5 (.and dr sr1 sr2)
  | or {dr sr1 sr2} (hdr : drField w = dr) (hsr1 : sr1Field w = sr1) (hsr2 : sr2Field w = sr2) :
    RowMeaning w 11#5 (.or dr sr1 sr2)
  | not {dr sr1} (hdr : drField w = dr) (hsr1 : sr1Field w = sr1) : RowMeaning w 12#5 (.not dr sr1)
  | br {imm} (himm : immField 27 w = imm) : RowMeaning w 16#5 (.br imm)
  | brz {imm} (himm : immField 27 w = imm) : RowMeaning w 17#5 (.brz imm)
  | halt : RowMeaning w 29#5 .halt

theorem exists_rowMeaning (w : Word) (row : BitVec 5) : ∃ i, RowMeaning w row i := by
  rcases row_cases row with ⟨i, hi, rfl⟩ | h | rfl | rfl
  · exact ⟨i, .nop i hi⟩
  · rcases fixed_row_cases row h with rfl | rfl | rfl | rfl | rfl | rfl | rfl | rfl | rfl
    exacts [⟨_, .ldi rfl rfl⟩, ⟨_, .ld rfl rfl rfl⟩, ⟨_, .st rfl rfl rfl⟩, ⟨_, .add rfl rfl rfl⟩,
      ⟨_, .sub rfl rfl rfl⟩, ⟨_, .and rfl rfl rfl⟩, ⟨_, .or rfl rfl rfl⟩, ⟨_, .not rfl rfl⟩, ⟨_, .halt⟩]
  · exact ⟨_, .br rfl⟩
  · exact ⟨_, .brz rfl⟩

theorem RowMeaning.row_eq {w : Word} {row : BitVec 5} {i : Instr} (h : RowMeaning w row i) : i.row = row := by
  cases h <;> rfl

/-- A record of the row's format has every field that the row's instruction reads. -/
theorem RowMeaning.ofRow_eq {w : Word} {row : BitVec 5} {i : Instr} (h : RowMeaning w row i)
    (hf : formatOf (opcodeField w) = formatOf row) : (decodeFields w).ofRow row = some i := by
  unfold decodeFields
  rw [hf]
  cases h
  case nop hi => exact ofRow_of_noOperation hi _
  all_goals
    subst_vars
    rfl

section decode

variable {ops : Config.BranchOpcodes} {w : Word} {i : Instr}

theorem decode_of_rowMeaning (h : RowMeaning w (rowOfOpcode ops (opcodeField w)) i) : decode ops w = some i :=
  (decode_eq_ofRow ops w).trans (h.ofRow_eq (formatOf_rowOfOpcode ops _).symm)

/-- Decode gives what the row of the word's opcode means, and nothing else. -/
theorem decode_eq_some_iff : decode ops w = some i ↔ RowMeaning w (rowOfOpcode ops (opcodeField w)) i := by
  refine ⟨fun h => ?_, decode_of_rowMeaning⟩
  obtain ⟨j, hj⟩ := exists_rowMeaning w (rowOfOpcode ops (opcodeField w))
  rwa [← Option.some.inj ((decode_of_rowMeaning hj).symm.trans h)]

theorem opcode_of_decode (h : decode ops w = some i) : i.opcode ops = opcodeField w := by
  rw [Instr.opcode, (decode_eq_some_iff.1 h).row_eq, opcodeOfRow_rowOfOpcode]

/-- Under an opcode that the source numbers, a word stands for what the row of that number means. -/
theorem decode_of_fixed {opcode : BitVec 5} (hw : opcodeField w = opcode) (hf : opcode.toNat ∈ Config.fixedOpcodes)
    (h : RowMeaning w opcode i) : decode ops w = some i := by
  apply decode_of_rowMeaning
  rwa [hw, rowOfOpcode_fixed ops hf]

end decode

/-! ### Every word decodes (R82) -/

theorem fitsSigned_immField (n : Nat) (w : Word) : fitsSigned n (immField n w) = true := by
  rw [immField_eq_toInt, fitsSigned, Bool.and_eq_true, decide_eq_true_iff, decide_eq_true_iff]
  exact ⟨BitVec.le_toInt _, BitVec.toInt_lt⟩

theorem RowMeaning.wellFormed {w : Word} {row : BitVec 5} {i : Instr} (h : RowMeaning w row i) :
    i.wellFormed = true := by
  cases h
  case nop hi => exact wellFormed_of_noOperation hi
  case ldi himm | ld himm | st himm | br himm | brz himm => exact himm ▸ fitsSigned_immField _ w
  all_goals rfl

theorem exists_decode (ops : Config.BranchOpcodes) (w : Word) : ∃ i, decode ops w = some i := by
  obtain ⟨i, hi⟩ := exists_rowMeaning w (rowOfOpcode ops (opcodeField w))
  exact ⟨i, decode_of_rowMeaning hi⟩

/-- Settles O4: every row of the map means a well-formed instruction of that row. -/
theorem everyWordDecodes : Obligations.EveryWordDecodes := by
  intro ops w
  obtain ⟨i, hi⟩ := exists_decode ops w
  exact ⟨i, hi, (decode_eq_some_iff.1 hi).wellFormed, opcode_of_decode hi⟩

/-- A word's meaning under a row that the source does not number and that is not a branch's is a no-operation. -/
theorem RowMeaning.mem_noOperations {w : Word} {row : BitVec 5} {i : Instr} (h : RowMeaning w row i)
    (hf : row.toNat ∉ Config.fixedOpcodes) (hbr : row ≠ 16#5) (hbrz : row ≠ 17#5) : i ∈ noOperations := by
  cases h
  case nop hi => exact hi
  case br => exact absurd rfl hbr
  case brz => exact absurd rfl hbrz
  all_goals exact absurd (by decide) hf

theorem rowOfOpcode_eq_iff {ops : Config.BranchOpcodes} {opcode row : BitVec 5} :
    rowOfOpcode ops opcode = row ↔ opcode = opcodeOfRow ops row := by
  constructor
  · rintro rfl
    exact (opcodeOfRow_rowOfOpcode ops opcode).symm
  · rintro rfl
    exact rowOfOpcode_opcodeOfRow ops row

/-- Settles O5: the opcode fixes the row, and the row the instruction. -/
theorem branchOpcodesMoveTheirRows : Obligations.BranchOpcodesMoveTheirRows := by
  intro ops w
  change (opcodeField w = _ → _) ∧ (opcodeField w = _ → _) ∧ ((opcodeField w).toNat ∈ _ → _) ∧
    ((opcodeField w).toNat ∉ _ → opcodeField w ≠ _ → opcodeField w ≠ _ → _)
  refine ⟨fun h => ?br, fun h => ?brz, fun h => ?fixed, fun hfix hbr hbrz => ?unassigned⟩
  case br =>
    apply decode_of_rowMeaning
    rw [h, rowOfOpcode_br]
    exact .br (immField_eq_toInt 27 w)
  case brz =>
    apply decode_of_rowMeaning
    rw [h, rowOfOpcode_brz]
    exact .brz (immField_eq_toInt 27 w)
  case fixed =>
    refine ⟨by rw [decode_eq_ofRow, decode_eq_ofRow, rowOfOpcode_fixed ops h, rowOfOpcode_fixed _ h], fun i hi => ?_⟩
    rw [(decode_eq_some_iff.1 hi).row_eq, rowOfOpcode_fixed ops h]
    rfl
  case unassigned =>
    obtain ⟨i, hi⟩ := exists_decode ops w
    refine ⟨i, hi, (decode_eq_some_iff.1 hi).mem_noOperations (fun hr => ?_) (fun hr => ?_) (fun hr => ?_)⟩
    · exact hfix (rowOfOpcode_eq_of_fixed ops hr ▸ hr)
    · exact hbr ((rowOfOpcode_eq_iff.1 hr).trans (opcodeOfRow_br ops))
    · exact hbrz ((rowOfOpcode_eq_iff.1 hr).trans (opcodeOfRow_brz ops))

/-! ### Decode of an encoded instruction (R85, R86) -/

/-- The immediate of an encoded LDI, LD, ST, BR or BRZ is read back. -/
theorem immField_of_extract {n : Nat} {w : Word} {imm : Int} (hw : w.extractLsb' 0 n = BitVec.ofInt n imm) (hn : 1 ≤ n)
    (h : fitsSigned n imm = true) : immField n w = imm :=
  (congrArg sext hw).trans (sext_ofInt hn h)

/-- A word that the encoder writes means, under its instruction's row, that instruction. -/
theorem rowMeaning_encode (ops : Config.BranchOpcodes) {i : Instr} (hi : i.wellFormed = true) :
    RowMeaning (encode ops i) i.row i := by
  cases i using instr_cases with
  | nop i hnop => exact .nop i hnop
  | ldi dr imm =>
    obtain ⟨hdr, himm⟩ := fields_f1 (Instr.opcode (.ldi dr imm) ops) dr (BitVec.ofInt 23 imm)
    exact .ldi hdr (immField_of_extract himm (by decide) hi)
  | ld dr sr1 imm =>
    obtain ⟨hdr, hsr1, himm⟩ := fields_f2 (Instr.opcode (.ld dr sr1 imm) ops) dr sr1 (BitVec.ofInt 19 imm)
    exact .ld hdr hsr1 (immField_of_extract himm (by decide) hi)
  | st dr sr1 imm =>
    obtain ⟨hdr, hsr1, himm⟩ := fields_f2 (Instr.opcode (.st dr sr1 imm) ops) dr sr1 (BitVec.ofInt 19 imm)
    exact .st hdr hsr1 (immField_of_extract himm (by decide) hi)
  | add dr sr1 sr2 =>
    obtain ⟨hdr, hsr1, hsr2⟩ := fields_f3 (Instr.opcode (.add dr sr1 sr2) ops) dr sr1 sr2 0#15
    exact .add hdr hsr1 hsr2
  | sub dr sr1 sr2 =>
    obtain ⟨hdr, hsr1, hsr2⟩ := fields_f3 (Instr.opcode (.sub dr sr1 sr2) ops) dr sr1 sr2 0#15
    exact .sub hdr hsr1 hsr2
  | and dr sr1 sr2 =>
    obtain ⟨hdr, hsr1, hsr2⟩ := fields_f3 (Instr.opcode (.and dr sr1 sr2) ops) dr sr1 sr2 0#15
    exact .and hdr hsr1 hsr2
  | or dr sr1 sr2 =>
    obtain ⟨hdr, hsr1, hsr2⟩ := fields_f3 (Instr.opcode (.or dr sr1 sr2) ops) dr sr1 sr2 0#15
    exact .or hdr hsr1 hsr2
  | not dr sr1 =>
    obtain ⟨hdr, hsr1, -⟩ := fields_f2 (Instr.opcode (.not dr sr1) ops) dr sr1 0#19
    exact .not hdr hsr1
  | br imm => exact .br (immField_of_extract (fields_f4 (Instr.opcode (.br imm) ops) _) (by decide) hi)
  | brz imm => exact .brz (immField_of_extract (fields_f4 (Instr.opcode (.brz imm) ops) _) (by decide) hi)
  | halt => exact .halt

/-- Settles O6: the opcode of an encoded instruction selects its row, and the row reads the operands back. -/
theorem decodeEncodeAgree : Obligations.DecodeEncodeAgree := by
  intro ops i hi
  apply decode_of_rowMeaning
  rw [opcodeField_encode, Instr.opcode, rowOfOpcode_opcodeOfRow]
  exact rowMeaning_encode ops hi

/-! ### Encode of a decoded word, and the bits that no instruction reads (R80) -/

theorem regBits_drField (w : Word) : regBits (drField w) = w.extractLsb' 23 4 := rfl

theorem regBits_sr1Field (w : Word) : regBits (sr1Field w) = w.extractLsb' 19 4 := rfl

theorem regBits_sr2Field (w : Word) : regBits (sr2Field w) = w.extractLsb' 15 4 := rfl

theorem ofInt_immField (n : Nat) (w : Word) : BitVec.ofInt n (immField n w) = w.extractLsb' 0 n := by
  rw [immField_eq_toInt, BitVec.ofInt_toInt]

/-- Two fields that lie one above the other make one field. -/
theorem extractLsb'_append_extractLsb' {l : Nat} (w : BitVec l) (k m n : Nat) :
    w.extractLsb' (k + m) n ++ w.extractLsb' k m = w.extractLsb' k (n + m) := by
  apply BitVec.eq_of_getLsbD_eq
  intro j hj
  rw [BitVec.getLsbD_append]
  split
  case isTrue h => simp [h, hj]
  case isFalse h => simp [hj, show j - m < n by omega, show k + m + (j - m) = k + j by omega]

/-- The opcode over a field that reaches down to bit `k`, the bits below it zero, is the word under the mask of the bits
from `k` upward. -/
theorem opcodeField_append_eq_and {w mask : Word} {v : BitVec 27} (k : Nat) (hk : k ≤ 27)
    (hmask : ∀ j : Fin 32, mask.getLsbD j = decide (k ≤ j))
    (hv : ∀ j < 27, v.getLsbD j = (decide (k ≤ j) && w.getLsbD j)) :
    opcodeField w ++ v = w &&& mask := by
  apply BitVec.eq_of_getLsbD_eq
  intro j hj
  rw [BitVec.getLsbD_and, hmask ⟨j, hj⟩, BitVec.getLsbD_append]
  split
  case isTrue h => rw [hv j h, Bool.and_comm]
  case isFalse h => simp [opcodeField, show j - 27 < 5 by omega, show 27 + (j - 27) = j by omega, show k ≤ j by omega]

theorem getLsbD_append_zero {m : Nat} (v : BitVec m) (k j : Nat) :
    (v ++ 0#k).getLsbD j = (decide (k ≤ j) && v.getLsbD (j - k)) := by
  rw [BitVec.getLsbD_append]
  split
  case isTrue h => simp [show ¬ k ≤ j by omega]
  case isFalse h => simp [show k ≤ j by omega]

theorem usedBits_of_noOperation {ops : Config.BranchOpcodes} {w : Word} {i : Instr} (hi : i ∈ noOperations)
    (h : rowOfOpcode ops (opcodeField w) = i.row) : usedBits ops w = 0xF8000000#32 := by
  unfold usedBits
  rw [h]
  clear h
  revert i
  decide

section ignoredBits

variable (w : Word)

/-- Every bit below the opcode is read (Formats 1, 2 and 4). -/
theorem opcodeField_append_low_27 : opcodeField w ++ w.extractLsb' 0 27 = w &&& 0xFFFFFFFF#32 :=
  opcodeField_append_eq_and 0 (by decide) (by decide) fun j hj => by simp [hj]

/-- `w[14:0]` is ignored (Format 3). -/
theorem opcodeField_append_low_12 :
    opcodeField w ++ (w.extractLsb' 15 12 ++ 0#15 : BitVec 27) = w &&& 0xFFFF8000#32 :=
  opcodeField_append_eq_and 15 (by decide) (by decide) fun j hj => by
    rw [getLsbD_append_zero]
    by_cases h : 15 ≤ j <;> simp [h, show j - 15 < 12 by omega]

/-- `w[18:0]` is ignored (NOT). -/
theorem opcodeField_append_low_8 :
    opcodeField w ++ (w.extractLsb' 19 8 ++ 0#19 : BitVec 27) = w &&& 0xFFF80000#32 :=
  opcodeField_append_eq_and 19 (by decide) (by decide) fun j hj => by
    rw [getLsbD_append_zero]
    by_cases h : 19 ≤ j <;> simp [h, show j - 19 < 8 by omega]

/-- `w[26:0]` is ignored (HALT and the no-operations). -/
theorem opcodeField_append_zero : opcodeField w ++ 0#27 = w &&& 0xF8000000#32 :=
  opcodeField_append_eq_and 27 (by decide) (by decide) fun j hj => by simp [show ¬ 27 ≤ j by omega]

/-- Format 1's fields below the opcode. -/
theorem f1_fields_append : w.extractLsb' 23 4 ++ w.extractLsb' 0 23 = w.extractLsb' 0 27 :=
  extractLsb'_append_extractLsb' w 0 23 4

/-- The two register fields of Formats 2 and 3. -/
theorem dr_append_sr1 : w.extractLsb' 23 4 ++ w.extractLsb' 19 4 = w.extractLsb' 19 8 :=
  extractLsb'_append_extractLsb' w 19 4 4

/-- Format 2's fields below the opcode. -/
theorem f2_fields_append :
    w.extractLsb' 23 4 ++ w.extractLsb' 19 4 ++ w.extractLsb' 0 19 = w.extractLsb' 0 27 :=
  (congrArg (· ++ w.extractLsb' 0 19) (dr_append_sr1 w)).trans (extractLsb'_append_extractLsb' w 0 19 8)

/-- Format 3's fields below the opcode. -/
theorem f3_fields_append :
    w.extractLsb' 23 4 ++ w.extractLsb' 19 4 ++ w.extractLsb' 15 4 = w.extractLsb' 15 12 :=
  (congrArg (· ++ w.extractLsb' 15 4) (dr_append_sr1 w)).trans (extractLsb'_append_extractLsb' w 15 4 8)

end ignoredBits

/-- The operand bits of what a word means are the word's own bits, the ignored ones zero. -/
theorem RowMeaning.append_operandBits {ops : Config.BranchOpcodes} {w : Word} {i : Instr}
    (h : RowMeaning w (rowOfOpcode ops (opcodeField w)) i) :
    opcodeField w ++ i.operandBits = w &&& usedBits ops w := by
  generalize hr : rowOfOpcode ops (opcodeField w) = row at h
  cases h
  case nop hi => rw [usedBits_of_noOperation hi hr, operandBits_of_noOperation hi, opcodeField_append_zero]
  all_goals
    subst_vars
    simp only [usedBits, hr, BitVec.reduceToNat, Instr.operandBits, regBits_drField, regBits_sr1Field,
      regBits_sr2Field, ofInt_immField]
  case ldi => rw [f1_fields_append, opcodeField_append_low_27]
  case ld | st => rw [f2_fields_append, opcodeField_append_low_27]
  case br | brz => rw [opcodeField_append_low_27]
  case add | sub | and | or => rw [f3_fields_append, opcodeField_append_low_12]
  case not => rw [dr_append_sr1, opcodeField_append_low_8]
  case halt => rw [opcodeField_append_zero]

/-- Settles O7: the opcode of the decoded instruction is the word's, and its operand bits are the word's used bits. -/
theorem encodeDecodeClearsIgnoredBits : Obligations.EncodeDecodeClearsIgnoredBits := by
  intro ops w i h
  rw [encode, opcode_of_decode h]
  exact (decode_eq_some_iff.1 h).append_operandBits

/-- A field inside another one. -/
theorem extractLsb'_extractLsb' {l : Nat} (w : BitVec l) (k m a n : Nat) (h : a + n ≤ m) :
    (w.extractLsb' k m).extractLsb' a n = w.extractLsb' (k + a) n := by
  apply BitVec.eq_of_getLsbD_eq
  intro j hj
  simp [hj, show a + j < m by omega, Nat.add_assoc]

/-- Words that agree in `w[26:19]` have the same dr and sr1. -/
theorem dr_sr1_congr {w w' : Word} (h : w.extractLsb' 19 8 = w'.extractLsb' 19 8) :
    drField w = drField w' ∧ sr1Field w = sr1Field w' := by
  have dr := congrArg (fun v => (v.extractLsb' 4 4).toFin) h
  have sr1 := congrArg (fun v => (v.extractLsb' 0 4).toFin) h
  rw [extractLsb'_extractLsb' _ _ _ _ _ (by decide), extractLsb'_extractLsb' _ _ _ _ _ (by decide)] at dr sr1
  exact ⟨dr, sr1⟩

/-- Words that agree in `w[26:15]` have the same dr, sr1 and sr2. -/
theorem dr_sr1_sr2_congr {w w' : Word} (h : w.extractLsb' 15 12 = w'.extractLsb' 15 12) :
    drField w = drField w' ∧ sr1Field w = sr1Field w' ∧ sr2Field w = sr2Field w' := by
  have upper := congrArg (fun v => v.extractLsb' 4 8) h
  have sr2 := congrArg (fun v => (v.extractLsb' 0 4).toFin) h
  rw [extractLsb'_extractLsb' _ _ _ _ _ (by decide), extractLsb'_extractLsb' _ _ _ _ _ (by decide)] at upper sr2
  obtain ⟨hdr, hsr1⟩ := dr_sr1_congr upper
  exact ⟨hdr, hsr1, sr2⟩

/-- Settles O8: a row's meaning depends on the fields that the row reads only. -/
theorem ignoredBitsDoNotMatter : Obligations.IgnoredBitsDoNotMatter := by
  intro ops w w' hop hf3 hnot hall
  obtain ⟨i, hi⟩ := exists_decode ops w
  rw [hi, eq_comm]
  apply decode_of_rowMeaning
  rw [← hop]
  have meaning := decode_eq_some_iff.1 hi
  generalize hr : rowOfOpcode ops (opcodeField w) = row at meaning ⊢
  have number (hf : row.toNat ∈ Config.fixedOpcodes) : opcodeField w = row := by
    rw [rowOfOpcode_eq_iff.1 hr, opcodeOfRow_fixed ops hf]
  cases id meaning
  case nop hi => exact .nop i hi
  case halt => exact .halt
  case br => exact hall (.inr (.inl (by rw [rowOfOpcode_eq_iff.1 hr, opcodeOfRow_br]))) ▸ meaning
  case brz => exact hall (.inr (.inr (by rw [rowOfOpcode_eq_iff.1 hr, opcodeOfRow_brz]))) ▸ meaning
  case ldi | ld | st => exact hall (.inl (by rw [number (by decide)]; decide)) ▸ meaning
  case not hdr hsr1 =>
    obtain ⟨hdr', hsr1'⟩ := dr_sr1_congr (hnot (by rw [number (by decide)]; decide))
    exact .not (hdr' ▸ hdr) (hsr1' ▸ hsr1)
  all_goals obtain ⟨hdr', hsr1', hsr2'⟩ := dr_sr1_sr2_congr (hf3 (by rw [number (by decide)]; decide))
  case add hdr hsr1 hsr2 => exact .add (hdr' ▸ hdr) (hsr1' ▸ hsr1) (hsr2' ▸ hsr2)
  case sub hdr hsr1 hsr2 => exact .sub (hdr' ▸ hdr) (hsr1' ▸ hsr1) (hsr2' ▸ hsr2)
  case and hdr hsr1 hsr2 => exact .and (hdr' ▸ hdr) (hsr1' ▸ hsr1) (hsr2' ▸ hsr2)
  case or hdr hsr1 hsr2 => exact .or (hdr' ▸ hdr) (hsr1' ▸ hsr1) (hsr2' ▸ hsr2)

/-- Settles O9: the ten words, each evaluated. -/
theorem knownWordsDecode : Obligations.KnownWordsDecode := by
  unfold Obligations.KnownWordsDecode
  decide

/-! ### Sign extension (R86) -/

/-- Settles O2: a field's signed and unsigned values differ by 0 or by `2^n`. -/
theorem signExtensionRoundTrip : Obligations.SignExtensionRoundTrip := by
  intro n f hn
  have hlt : (f.toNat : Int) < 2 ^ n := by exact_mod_cast f.isLt
  have value : (f.toNat : Int) % 2 ^ n = f.toNat := Int.emod_eq_of_lt (Int.natCast_nonneg _) hlt
  rw [sext_eq_ite f hn]
  split
  case isTrue => exact value
  case isFalse => rw [Int.sub_emod_right, value]

end Sys2Proof.Proofs
end

section
/-! PROOFS. The status word of every range (R108, R110), and the memory primitives and their form (R50 to R62). -/

namespace Sys2Proof.Proofs

open Sys2Proof.Machine Sys2Proof.Laws Sys2Proof.Safety

/-! ### The status word (R108, R110) -/

theorem deriveFlags_of_zero : deriveFlags 0 = ⟨true, false, false, false⟩ := by decide

theorem deriveFlags_of_below {x : Int} (h : x < -2147483648) : deriveFlags x = ⟨false, true, true, true⟩ := by
  simp [deriveFlags, outOfRange, h, show x ≠ 0 by omega, show x < 0 by omega]

theorem deriveFlags_of_negative {x : Int} (h0 : x < 0) (h : -2147483648 ≤ x) :
    deriveFlags x = ⟨false, true, false, false⟩ := by
  simp [deriveFlags, outOfRange, h0, h, show x ≠ 0 by omega, show x ≤ 2147483647 by omega]

theorem deriveFlags_of_positive {x : Int} (h0 : 0 < x) (h : x ≤ 2147483647) :
    deriveFlags x = ⟨false, false, false, false⟩ := by
  simp [deriveFlags, outOfRange, h, show x ≠ 0 by omega, show 0 ≤ x by omega, show -2147483648 ≤ x by omega]

theorem deriveFlags_of_above {x : Int} (h : 2147483647 < x) : deriveFlags x = ⟨false, false, true, true⟩ := by
  simp [deriveFlags, outOfRange, h, show x ≠ 0 by omega, show 0 ≤ x by omega]

/-- Settles O13: `unpack` reads every packed flag back, and each range of the wide value has its own four flags. -/
theorem statusWordOfEveryRange : Obligations.StatusWordOfEveryRange := by
  refine ⟨fun l f => ?places, fun x => ?ranges⟩
  case places =>
    have flags := unpack_pack l f
    exact ⟨congrArg Flags.z flags, congrArg Flags.n flags, congrArg Flags.c flags, congrArg Flags.v flags, pack_low l f⟩
  case ranges =>
    split
    case isTrue h => rw [h, deriveFlags_of_zero]; decide
    case isFalse hzero =>
    split
    case isTrue h => rw [deriveFlags_of_below h]; decide
    case isFalse hbelow =>
    split
    case isTrue h => rw [deriveFlags_of_negative h (by omega)]; decide
    case isFalse hnegative =>
    split
    case isTrue h => rw [deriveFlags_of_positive (by omega) h]; decide
    case isFalse hpositive => rw [deriveFlags_of_above (by omega)]; decide

/-! ### The canonical form of a memory (log 1) -/

theorem read_of_listed (j : Nat) (w : Word) (m : Memory) : Memory.read ((j, w) :: m) j = w := by
  simp [Memory.read]

theorem read_of_not_first {j i : Nat} (h : j ≠ i) (w : Word) (m : Memory) :
    Memory.read ((j, w) :: m) i = Memory.read m i := by
  simp [Memory.read, h]

/-- The first cell of a memory is the lowest index at which it reads other than an unlisted word, so a memory that lies
above `j` reads otherwise at `j`. -/
theorem first_cell_ne_read {lo j : Nat} {w : Word} {m m' : Memory} (hm : Memory.wfFrom lo ((j, w) :: m) = true)
    (hm' : Memory.wfFrom (j + 1) m' = true) : Memory.read ((j, w) :: m) j ≠ Memory.read m' j := by
  obtain ⟨-, -, hw, -⟩ := (wfFrom_cons_iff lo j w m).1 hm
  rwa [read_of_listed, read_of_lt hm' (Nat.lt_succ_self j)]

theorem eq_of_wfFrom_of_read_eq {lo lo' : Nat} {m m' : Memory} (hm : Memory.wfFrom lo m = true)
    (hm' : Memory.wfFrom lo' m' = true) (h : ∀ i, m.read i = m'.read i) : m = m' := by
  induction m generalizing lo lo' m' with
  | nil =>
    cases m' with
    | nil => rfl
    | cons c' m' => exact absurd (h c'.1).symm (first_cell_ne_read (m' := []) hm' rfl)
  | cons c m ih =>
    cases m' with
    | nil => exact absurd (h c.1) (first_cell_ne_read (m' := []) hm rfl)
    | cons c' m' =>
      obtain ⟨j, w⟩ := c
      obtain ⟨j', w'⟩ := c'
      obtain ⟨-, hj, hw, rest⟩ := (wfFrom_cons_iff lo j w m).1 hm
      obtain ⟨-, hj', hw', rest'⟩ := (wfFrom_cons_iff lo' j' w' m').1 hm'
      have index : j = j' := by
        rcases Nat.lt_trichotomy j j' with hlt | heq | hgt
        · exact absurd (h j) (first_cell_ne_read hm ((wfFrom_cons_iff _ _ _ _).2 ⟨hlt, hj', hw', rest'⟩))
        · exact heq
        · exact absurd (h j').symm (first_cell_ne_read hm' ((wfFrom_cons_iff _ _ _ _).2 ⟨hgt, hj, hw, rest⟩))
      subst index
      have word : w = w' := by simpa only [read_of_listed] using h j
      have tails (i : Nat) : Memory.read m i = Memory.read m' i := by
        by_cases hi : j = i
        · subst hi
          rw [read_of_lt rest (Nat.lt_succ_self j), read_of_lt rest' (Nat.lt_succ_self j)]
        · simpa only [read_of_not_first hi] using h i
      rw [word, ih rest rest' tails]

/-- Settles O15: two memories in the form have the same first cell, and their tails read alike again. -/
theorem memoryFormIsCanonical : Obligations.MemoryFormIsCanonical :=
  fun _ _ hm hm' h => eq_of_wfFrom_of_read_eq hm hm' h

/-! ### The memory primitives (R53) -/

theorem inBounds_eq_false_iff (a : Word) : inBounds a = false ↔ a.toInt < 0 ∨ 100 ≤ a.toInt := by
  rw [← Bool.not_eq_true, inBounds_iff]
  omega

theorem toNat_toInt_of_inBounds {a : Word} (h : inBounds a = true) : a.toInt.toNat = a.toNat := by
  rw [← (toNat_of_inBounds h).1, Int.toNat_natCast]

theorem sameLatches_setMem (s : State) (m : Memory) : SameLatches s (s.setMem m) :=
  ⟨rfl, rfl, rfl, rfl, rfl, rfl, rfl, rfl⟩

theorem sameMemBut_setMem_write {s : State} (hs : s.mem.wf = true) (i : Nat) (v : Word) :
    SameMemBut i s (s.setMem (s.mem.write i v)) :=
  fun k hk => (read_write hs i v k).trans (if_neg hk)

/-- Settles O14: in bounds the primitives are the memory's own read and write, elsewhere they answer nothing. -/
theorem memoryPrimitivesMoveOneWord : Obligations.MemoryPrimitivesMoveOneWord := by
  intro s a v hs
  refine ⟨fun ha => ?inside, fun ha => ?outside⟩
  case inside =>
    have hin := (inBounds_iff a).2 ha
    rw [toNat_toInt_of_inBounds hin]
    refine ⟨memRead_eq_some.2 ⟨hin, rfl⟩, _, memWrite_eq_some.2 ⟨hin, rfl⟩, memRead_eq_some.2 ⟨hin, ?_⟩,
      sameMemBut_setMem_write hs _ v, fun _ => rfl, sameLatches_setMem s _, rfl, rfl, rfl, rfl⟩
    rw [State.setMem_mem, read_write hs, if_pos rfl]
  case outside =>
    have hout := (inBounds_eq_false_iff a).2 ha
    exact ⟨memRead_eq_none.2 hout, memWrite_eq_none.2 hout⟩

end Sys2Proof.Proofs
end

section
/-! PROOFS. Execute: what any instruction can do to the state, and what each one does (R127 to R173). -/

namespace Sys2Proof.Proofs

open Sys2Proof.Machine Sys2Proof.Laws Sys2Proof.Safety

/-! ### All that Execute can do -/

section noOperation

variable {i : Instr} (hi : i ∈ noOperations)

include hi

theorem exec_of_noOperation (s : State) : exec i s = toFetch s := by
  fin_cases hi <;> rfl

theorem setsFlags_of_noOperation : setsFlags i = false := by
  revert i; decide

theorem mnemonicOf_of_noOperation : mnemonicOf i = none := by
  revert i; decide

theorem statusOf_of_noOperation (s : State) : statusOf i s = .noOperation := by
  fin_cases hi <;> rfl

end noOperation

/-- `Effect i s u`: `u` is a state that Execute of `i` may leave, but for the sequencer's move. -/
inductive Effect (i : Instr) (s : State) : State → Prop where
  | nothing : Effect i s s
  | register (dr : RegIdx) (v : Word) : Effect i s (s.writeReg dr v)
  | flags (h : setsFlags i = true) (x : Int) (dr : RegIdx) (v : Word) : Effect i s ((s.setFlags x).writeReg dr v)
  | memory {a : Nat} (ha : a < 100) (v : Word) : Effect i s (s.setMem (s.mem.write a v))
  | pc (h : isBranch i = true) (v : Word) : Effect i s (s.setPC v)

/-- Every instruction but HALT has one of the effects and goes to the next Fetch (R128). -/
theorem exec_eq_effect (i : Instr) (s : State) (hi : i ≠ .halt) :
    ∃ u, Effect i s u ∧ exec i s = .next (u.goto .fetch .m0) := by
  cases i using instr_cases with
  | nop i hnop => exact ⟨s, .nothing, exec_of_noOperation hnop s⟩
  | ldi dr imm => exact ⟨_, .register dr _, rfl⟩
  | ld dr sr1 imm =>
    cases h : inBounds (effectiveAddress (s.reg sr1) imm) with
    | true => exact ⟨_, .register dr _, execLd_eq_next.2 (.inl ⟨h, rfl⟩)⟩
    | false => exact ⟨_, .nothing, execLd_eq_next.2 (.inr ⟨h, rfl⟩)⟩
  | st dr sr1 imm =>
    cases h : inBounds (effectiveAddress (s.reg sr1) imm) with
    | true => exact ⟨_, .memory (toNat_of_inBounds h).2 _, execSt_eq_next.2 (.inl ⟨h, rfl⟩)⟩
    | false => exact ⟨_, .nothing, execSt_eq_next.2 (.inr ⟨h, rfl⟩)⟩
  | add dr sr1 sr2 => exact ⟨_, .flags rfl _ dr _, rfl⟩
  | sub dr sr1 sr2 => exact ⟨_, .flags rfl _ dr _, rfl⟩
  | and dr sr1 sr2 => exact ⟨_, .flags rfl _ dr _, rfl⟩
  | or dr sr1 sr2 => exact ⟨_, .flags rfl _ dr _, rfl⟩
  | not dr sr1 => exact ⟨_, .flags rfl _ dr _, rfl⟩
  | br imm => exact ⟨_, .pc rfl _, rfl⟩
  | brz imm =>
    cases h : s.flags.z with
    | true => exact ⟨_, .pc rfl _, execBrz_eq_next.2 (.inl ⟨h, rfl⟩)⟩
    | false => exact ⟨_, .nothing, execBrz_eq_next.2 (.inr ⟨h, rfl⟩)⟩
  | halt => exact absurd rfl hi

/-- All that Execute can answer. -/
theorem exec_eq_next_cases {i : Instr} {s t : State} (h : exec i s = .next t) :
    (i = .halt ∧ t = s.goto .halt .m0) ∨ (i ≠ .halt ∧ ∃ u, Effect i s u ∧ t = u.goto .fetch .m0) := by
  by_cases hi : i = .halt
  · subst hi
    exact .inl ⟨rfl, toHalt_eq_next.1 h⟩
  · obtain ⟨u, hu, hexec⟩ := exec_eq_effect i s hi
    exact .inr ⟨hi, u, hu, by injection h.symm.trans hexec⟩

theorem atFetch_goto (s : State) : AtFetch (s.goto .fetch .m0) := ⟨rfl, rfl⟩

/-- Settles O28: HALT goes to Halt, any other instruction to the next Fetch. -/
theorem executeNeverStops : Obligations.ExecuteNeverStops := by
  intro i s
  by_cases hi : i = .halt
  · subst hi
    exact ⟨_, toHalt_eq_next.2 rfl, fun _ => rfl, fun h => absurd rfl h⟩
  · obtain ⟨u, -, hexec⟩ := exec_eq_effect i s hi
    exact ⟨_, hexec, fun h => absurd h hi, fun _ => atFetch_goto u⟩

/-! ### What Execute leaves unchanged -/

theorem Effect.sameLatches {i : Instr} {s u : State} (h : Effect i s u) : SameLatches s u := by
  cases h <;> exact ⟨rfl, rfl, rfl, rfl, rfl, rfl, rfl, rfl⟩

theorem Effect.sw_eq {i : Instr} {s u : State} (h : Effect i s u) (hi : setsFlags i = false) : u.sw = s.sw := by
  cases h
  case flags hflags _ _ _ => rw [hi] at hflags; cases hflags
  all_goals rfl

theorem Effect.pc_eq {i : Instr} {s u : State} (h : Effect i s u) (hi : isBranch i = false) : u.pc = s.pc := by
  cases h
  case pc hbranch _ => rw [hi] at hbranch; cases hbranch
  all_goals rfl

/-- The sequencer's move leaves the datapath registers, DEC and the parameters. -/
theorem sameLatches_goto {s t : State} (h : SameLatches s t) (m : Macrostate) (k : Microstate) :
    SameLatches s (t.goto m k) :=
  ⟨h.ir, h.mar, h.mdr, h.aluA, h.aluB, h.aluR, h.dec, h.params⟩

theorem sameLatches_refl (s : State) : SameLatches s s := ⟨rfl, rfl, rfl, rfl, rfl, rfl, rfl, rfl⟩

/-- Settles O29: no effect touches a latch, nor does the move of the sequencer. -/
theorem executeKeepsTheLatches : Obligations.ExecuteKeepsTheLatches := by
  intro i s t h
  rcases exec_eq_next_cases h with ⟨-, rfl⟩ | ⟨-, u, hu, rfl⟩
  · exact sameLatches_goto (sameLatches_refl s) _ _
  · exact sameLatches_goto hu.sameLatches _ _

/-- The flag write covers the whole status word (R108, D5). -/
theorem exec_setSW_of_setsFlags {i : Instr} (hi : setsFlags i = true) (s : State) (old : Word) :
    exec i (s.setSW old) = exec i s := by
  cases i using instr_cases with
  | nop i hnop => rw [setsFlags_of_noOperation hnop] at hi; cases hi
  | add | sub | and | or | not => rfl
  | ldi | ld | st | br | brz | halt => cases hi

/-- Settles O30: only the five have an effect on the status word, and theirs overwrites it. -/
theorem onlyFiveInstructionsWriteFlags : Obligations.OnlyFiveInstructionsWriteFlags := by
  intro i s t h
  refine ⟨fun hi => ?others, fun hi old => (exec_setSW_of_setsFlags hi s old).trans h⟩
  case others =>
    rcases exec_eq_next_cases h with ⟨-, rfl⟩ | ⟨-, u, hu, rfl⟩
    · rfl
    · exact hu.sw_eq hi

/-- Settles O31: only a branch has an effect on PC. -/
theorem onlyBranchesWritePC : Obligations.OnlyBranchesWritePC := by
  intro i s t h hi
  rcases exec_eq_next_cases h with ⟨-, rfl⟩ | ⟨-, u, hu, rfl⟩
  · rfl
  · exact hu.pc_eq hi

/-! ### The shared results, each with its frame -/

theorem sameRegsBut_writeReg (s : State) (dr : RegIdx) (v : Word) : SameRegsBut dr s (s.writeReg dr v) :=
  fun r hr => (State.writeReg_reg s dr v r).trans (if_neg hr)

theorem reg_writeReg_self (s : State) (dr : RegIdx) (v : Word) : (s.writeReg dr v).reg dr = v :=
  (State.writeReg_reg s dr v dr).trans (if_pos rfl)

/-- The frame of an instruction that writes `dr` alone (LDI and LD). -/
theorem register_frame (s : State) (dr : RegIdx) (v : Word) :
    SameRegsBut dr s ((s.writeReg dr v).goto .fetch .m0) ∧ SameMem s ((s.writeReg dr v).goto .fetch .m0) ∧
      ((s.writeReg dr v).goto .fetch .m0).sw = s.sw ∧ ((s.writeReg dr v).goto .fetch .m0).pc = s.pc ∧
      SameLatches s ((s.writeReg dr v).goto .fetch .m0) ∧ AtFetch ((s.writeReg dr v).goto .fetch .m0) :=
  ⟨sameRegsBut_writeReg s dr v, fun _ => rfl, rfl, rfl, ⟨rfl, rfl, rfl, rfl, rfl, rfl, rfl, rfl⟩, rfl, rfl⟩

/-- The flags that `setFlags` leaves, after whatever write of a register and move of the sequencer. -/
theorem wideFlags_setFlags (s : State) (x : Int) (dr : RegIdx) (v : Word) :
    WideFlags (((s.setFlags x).writeReg dr v).goto .fetch .m0) x := by
  have flags : (((s.setFlags x).writeReg dr v).goto .fetch .m0).flags = deriveFlags x := setFlags_flags s x
  constructor
  case z => rw [flags, deriveFlags_z, decide_eq_true_iff]
  case n => rw [flags, deriveFlags_n, decide_eq_true_iff]
  case c => rw [flags, deriveFlags_c, outOfRange_iff]
  case v => rw [flags, deriveFlags_v, outOfRange_iff]
  case low => exact pack_low _ _

theorem bitwiseFlags_setFlags (s : State) (w : Word) (dr : RegIdx) (v : Word) :
    BitwiseFlags (((s.setFlags w.toInt).writeReg dr v).goto .fetch .m0) w := by
  have flags : (((s.setFlags w.toInt).writeReg dr v).goto .fetch .m0).flags = deriveFlags w.toInt :=
    setFlags_flags s w.toInt
  constructor
  case z => rw [flags, deriveFlags_z, decide_eq_true_iff, toInt_eq_zero_iff]
  case n => rw [flags, deriveFlags_n, decide_toInt_neg]
  case c => rw [flags, deriveFlags_c, outOfRange_toInt]
  case v => rw [flags, deriveFlags_v, outOfRange_toInt]
  case low => exact pack_low _ _

/-- All that an ALU instruction does with its wide value (R160, R161). -/
theorem aluResult_spec (s : State) (dr : RegIdx) (x : Int) :
    ∃ t, aluResult s dr x = .next t ∧ (t.reg dr).toInt = (x + 2 ^ 31) % 2 ^ 32 - 2 ^ 31 ∧ WideFlags t x ∧
      SameRegsBut dr s t ∧ SameMem s t ∧ t.pc = s.pc ∧ SameLatches s t ∧ AtFetch t := by
  obtain ⟨hregs, hmem, -, hpc, -, hfetch⟩ := register_frame (s.setFlags x) dr (truncate32 x)
  refine ⟨_, rfl, ?_, wideFlags_setFlags s x dr _, hregs, hmem, hpc, ?_, hfetch⟩
  · rw [State.goto_reg, reg_writeReg_self, toInt_truncate32]
  · exact ⟨rfl, rfl, rfl, rfl, rfl, rfl, rfl, rfl⟩

/-- What stood in the status word does not matter to an ALU instruction (R108). -/
theorem aluResult_setSW (s : State) (old : Word) (dr : RegIdx) (x : Int) :
    aluResult (s.setSW old) dr x = aluResult s dr x := rfl

/-- All that a bitwise instruction does with its result (R162 to R164). -/
theorem bitwiseResult_spec (s : State) (dr : RegIdx) (w : Word) :
    ∃ t, bitwiseResult s dr w = .next t ∧ t.reg dr = w ∧ BitwiseFlags t w ∧
      SameRegsBut dr s t ∧ SameMem s t ∧ t.pc = s.pc ∧ SameLatches s t ∧ AtFetch t := by
  obtain ⟨hregs, hmem, -, hpc, -, hfetch⟩ := register_frame (s.setFlags w.toInt) dr w
  refine ⟨_, rfl, ?_, bitwiseFlags_setFlags s w dr _, hregs, hmem, hpc, ?_, hfetch⟩
  · rw [State.goto_reg, reg_writeReg_self]
  · exact ⟨rfl, rfl, rfl, rfl, rfl, rfl, rfl, rfl⟩

/-- All that a taken branch does (R170, R171). -/
theorem branch_spec (s : State) (imm : Int) :
    ∃ t, branch s imm = .next t ∧ t.pc.toInt = (s.pc.toInt + imm + 2 ^ 31) % 2 ^ 32 - 2 ^ 31 ∧
      SameRegs s t ∧ SameMem s t ∧ t.sw = s.sw ∧ SameLatches s t ∧ AtFetch t :=
  ⟨_, rfl, toInt_truncate32 _, fun _ => rfl, fun _ => rfl, rfl, ⟨rfl, rfl, rfl, rfl, rfl, rfl, rfl, rfl⟩, rfl, rfl⟩

/-- All that an instruction without an effect does (R154, R171, R173). -/
theorem toFetch_spec (s : State) :
    ∃ t, toFetch s = .next t ∧ SameRegs s t ∧ SameMem s t ∧ t.sw = s.sw ∧ t.pc = s.pc ∧ SameLatches s t ∧ AtFetch t :=
  ⟨_, rfl, fun _ => rfl, fun _ => rfl, rfl, rfl, ⟨rfl, rfl, rfl, rfl, rfl, rfl, rfl, rfl⟩, rfl, rfl⟩

/-! ### Data movement (R150 to R154) -/

section fields

variable {w : Word}

theorem drField_eq_of_toNat {dr : RegIdx} (h : (w.extractLsb' 23 4).toNat = dr.val) : drField w = dr := Fin.ext h

theorem sr1Field_eq_of_toNat {sr1 : RegIdx} (h : (w.extractLsb' 19 4).toNat = sr1.val) : sr1Field w = sr1 := Fin.ext h

theorem sr2Field_eq_of_toNat {sr2 : RegIdx} (h : (w.extractLsb' 15 4).toNat = sr2.val) : sr2Field w = sr2 := Fin.ext h

end fields

theorem toInt_truncate32_of_range {x : Int} (h0 : -2147483648 ≤ x) (h1 : x ≤ 2147483647) :
    (truncate32 x).toInt = x := by
  rw [toInt_truncate32]
  omega

theorem fitsSigned_iff {n : Nat} {v : Int} : fitsSigned n v = true ↔ -2 ^ (n - 1) ≤ v ∧ v < 2 ^ (n - 1) := by
  simp only [fitsSigned, Bool.and_eq_true, decide_eq_true_eq]

/-- Settles O33: an immediate that fits its field is a Word's value, so the truncation keeps it. -/
theorem ldiLoadsTheImmediate : Obligations.LdiLoadsTheImmediate := by
  intro dr imm s himm
  refine ⟨fun w hop hdr hw => ?encoding, ?effect⟩
  case encoding =>
    exact decode_of_fixed hop (by decide) (.ldi (drField_eq_of_toNat hdr) ((immField_eq_toInt 23 w).trans hw))
  case effect =>
    obtain ⟨hlow, hhigh⟩ := fitsSigned_iff.1 himm
    obtain ⟨hregs, hmem, hsw, hpc, hlatches, hfetch⟩ := register_frame s dr (truncate32 imm)
    refine ⟨_, rfl, ?_, hregs, hmem, hsw, hpc, hlatches, hfetch, rfl⟩
    rw [State.goto_reg, reg_writeReg_self, toInt_truncate32_of_range (by omega) (by omega)]

theorem accessStatus_of_inBounds {s : State} {sr1 : RegIdx} {imm : Int}
    (h : inBounds (effectiveAddress (s.reg sr1) imm) = true) : accessStatus s sr1 imm = .ok := if_pos h

theorem accessStatus_of_outOfBounds {s : State} {sr1 : RegIdx} {imm : Int}
    (h : inBounds (effectiveAddress (s.reg sr1) imm) = false) : accessStatus s sr1 imm = .addressOutOfBounds :=
  if_neg (Bool.eq_false_iff.1 h)

/-- Settles O34: in bounds the frame is that of a register write, out of bounds nothing changes. -/
theorem ldLoadsOrSkips : Obligations.LdLoadsOrSkips := by
  intro dr sr1 imm s
  split
  case isTrue h =>
    have hin := (inBounds_iff _).2 h
    rw [toNat_toInt_of_inBounds hin]
    exact ⟨_, execLd_eq_next.2 (.inl ⟨hin, rfl⟩), ⟨reg_writeReg_self s dr _, accessStatus_of_inBounds hin⟩,
      register_frame s dr _⟩
  case isFalse h =>
    have hout := Bool.eq_false_iff.2 fun hin => h ((inBounds_iff _).1 hin)
    obtain ⟨t, ht, hregs, frame⟩ := toFetch_spec s
    obtain rfl := toFetch_eq_next.1 ht
    exact ⟨_, execLd_eq_next.2 (.inr ⟨hout, rfl⟩), ⟨rfl, accessStatus_of_outOfBounds hout⟩, fun r _ => hregs r, frame⟩

/-- Settles O35: in bounds the frame is that of a memory write, out of bounds nothing changes. -/
theorem stStoresOrSkips : Obligations.StStoresOrSkips := by
  intro dr sr1 imm s hs
  split
  case isTrue h =>
    have hin := (inBounds_iff _).2 h
    rw [toNat_toInt_of_inBounds hin]
    refine ⟨_, execSt_eq_next.2 (.inl ⟨hin, rfl⟩), ⟨?_, sameMemBut_setMem_write hs _ _, accessStatus_of_inBounds hin⟩,
      fun _ => rfl, rfl, rfl, sameLatches_goto (sameLatches_setMem s _) _ _, atFetch_goto _⟩
    rw [State.goto_mem, State.setMem_mem, read_write hs, if_pos rfl]
  case isFalse h =>
    have hout := Bool.eq_false_iff.2 fun hin => h ((inBounds_iff _).1 hin)
    obtain ⟨t, ht, hregs, hmem, frame⟩ := toFetch_spec s
    obtain rfl := toFetch_eq_next.1 ht
    exact ⟨_, execSt_eq_next.2 (.inr ⟨hout, rfl⟩), ⟨hmem, accessStatus_of_outOfBounds hout⟩, hregs, frame⟩

/-- Settles O36: the exact sum is so near the Word's range that a wrapped one is near the range's other end. -/
theorem wrappedAddressIsNeverInBounds : Obligations.WrappedAddressIsNeverInBounds := by
  intro base imm himm
  obtain ⟨hlow, hhigh⟩ := fitsSigned_iff.1 himm
  have hbase := toInt_range base
  have value : (effectiveAddress base imm).toInt = (base.toInt + imm + 2 ^ 31) % 2 ^ 32 - 2 ^ 31 := toInt_truncate32 _
  rw [inBounds_iff, value]
  omega

/-- Settles O16: LD reads, from the memory that ST left, the index that ST wrote. -/
theorem loadReturnsTheStoredWord : Obligations.LoadReturnsTheStoredWord := by
  intro s dr sr1 dr' sr1' imm imm' hs hin haddr
  refine ⟨_, _, execSt_eq_next.2 (.inl ⟨hin, rfl⟩), execLd_eq_next.2 (.inl ⟨?_, rfl⟩), ?_⟩
  · rw [State.goto_reg, State.setMem_reg, haddr]
    exact hin
  · rw [State.goto_reg, reg_writeReg_self, State.goto_reg, State.setMem_reg, haddr, State.goto_mem, State.setMem_mem,
      read_write hs, if_pos rfl]

/-! ### Arithmetic and logic (R160 to R164) -/

/-- Settles O37: ADD is the ALU result of the exact sum. -/
theorem addStoresTheSum : Obligations.AddStoresTheSum := by
  intro dr sr1 sr2 s
  refine ⟨fun w hop hdr hsr1 hsr2 => ?encoding, ?effect⟩
  case encoding =>
    exact decode_of_fixed hop (by decide)
      (.add (drField_eq_of_toNat hdr) (sr1Field_eq_of_toNat hsr1) (sr2Field_eq_of_toNat hsr2))
  case effect =>
    obtain ⟨t, ht, hdr, hflags, hregs, hmem, hpc, hlatches, hfetch⟩ :=
      aluResult_spec s dr (wideAdd (s.reg sr1) (s.reg sr2))
    exact ⟨t, ht, hdr, hflags, hregs, hmem, hpc, hlatches, hfetch, rfl⟩

/-- Settles O38: SUB is the ALU result of the exact difference, whatever it did to the status word first. -/
theorem subStoresTheDifference : Obligations.SubStoresTheDifference := by
  intro dr sr1 sr2 s
  refine ⟨fun w hop hdr hsr1 hsr2 => ?encoding, ?effect⟩
  case encoding =>
    exact decode_of_fixed hop (by decide)
      (.sub (drField_eq_of_toNat hdr) (sr1Field_eq_of_toNat hsr1) (sr2Field_eq_of_toNat hsr2))
  case effect =>
    obtain ⟨t, ht, hdr, hflags, hregs, hmem, hpc, hlatches, hfetch⟩ :=
      aluResult_spec s dr (wideSub (s.reg sr1) (s.reg sr2))
    exact ⟨t, (aluResult_setSW s 0 dr _).trans ht, hdr, hflags, hregs, hmem, hpc, hlatches, hfetch, rfl⟩

/-- Settles O39: AND is the bitwise result of the conjunction. -/
theorem andStoresTheConjunction : Obligations.AndStoresTheConjunction := by
  intro dr sr1 sr2 s
  obtain ⟨t, ht, hdr, hflags, hregs, hmem, hpc, hlatches, hfetch⟩ :=
    bitwiseResult_spec s dr (bitAnd (s.reg sr1) (s.reg sr2))
  exact ⟨t, ht, fun k _ => hdr ▸ getLsbD_bitAnd _ _ k, hdr.symm ▸ hflags, hregs, hmem, hpc, hlatches, hfetch, rfl⟩

/-- Settles O40: OR is the bitwise result of the disjunction. -/
theorem orStoresTheDisjunction : Obligations.OrStoresTheDisjunction := by
  intro dr sr1 sr2 s
  obtain ⟨t, ht, hdr, hflags, hregs, hmem, hpc, hlatches, hfetch⟩ :=
    bitwiseResult_spec s dr (bitOr (s.reg sr1) (s.reg sr2))
  exact ⟨t, ht, fun k _ => hdr ▸ getLsbD_bitOr _ _ k, hdr.symm ▸ hflags, hregs, hmem, hpc, hlatches, hfetch, rfl⟩

/-- Settles O41: NOT is the bitwise result of the complement, whose value is `-a - 1`. -/
theorem notStoresTheComplement : Obligations.NotStoresTheComplement := by
  intro dr sr1 s
  obtain ⟨t, ht, hdr, hflags, hregs, hmem, hpc, hlatches, hfetch⟩ := bitwiseResult_spec s dr (bitNot (s.reg sr1))
  have value := toInt_bitNot (s.reg sr1)
  have zero : t.flags.z = true ↔ (s.reg sr1).toInt = -1 := by
    rw [hflags.z, ← toInt_eq_zero_iff, value]
    omega
  have negative : t.flags.n = true ↔ 0 ≤ (s.reg sr1).toInt := by
    rw [hflags.n, ← decide_toInt_neg, decide_eq_true_iff, value]
    omega
  exact ⟨t, ht, hdr ▸ value, hdr.symm ▸ hflags, zero, negative, hregs, hmem, hpc, hlatches, hfetch, rfl⟩

/-! ### Control (R170 to R173) -/

/-- Settles O42: BR is a taken branch. -/
theorem brAlwaysBranches : Obligations.BrAlwaysBranches := by
  intro imm s
  obtain ⟨t, ht, hpc, hregs, hmem, hsw, hlatches, hfetch⟩ := branch_spec s imm
  exact ⟨t, ht, hpc, hregs, hmem, hsw, hlatches, hfetch, rfl⟩

theorem exec_brz_of_zero {s : State} (h : s.flags.z = true) (imm : Int) : exec (.brz imm) s = branch s imm := if_pos h

theorem exec_brz_of_not_zero {s : State} (h : ¬ s.flags.z = true) (imm : Int) : exec (.brz imm) s = toFetch s :=
  if_neg h

/-- Settles O43: BRZ is a taken branch or has no effect. -/
theorem brzBranchesIfZero : Obligations.BrzBranchesIfZero := by
  intro imm s
  split
  case isTrue h =>
    obtain ⟨t, ht, hpc, hregs, hmem, hsw, hlatches, hfetch⟩ := branch_spec s imm
    exact ⟨t, (exec_brz_of_zero h imm).trans ht, hpc, hregs, hmem, hsw, hlatches, hfetch, rfl⟩
  case isFalse h =>
    obtain ⟨t, ht, hregs, hmem, hsw, hpc, hlatches, hfetch⟩ := toFetch_spec s
    exact ⟨t, (exec_brz_of_not_zero h imm).trans ht, hpc, hregs, hmem, hsw, hlatches, hfetch, rfl⟩

/-- Settles O44: the sum of an advanced PC and a 27-bit immediate is a Word's value. -/
theorem branchSumNeverWraps : Obligations.BranchSumNeverWraps := by
  intro s imm himm hpc0 hpc1
  obtain ⟨hlow, hhigh⟩ := fitsSigned_iff.1 himm
  have taken : ∃ t, branch s imm = .next t ∧ t.pc.toInt = s.pc.toInt + imm :=
    ⟨_, rfl, toInt_truncate32_of_range (by omega) (by omega)⟩
  exact ⟨taken, fun h => exec_brz_of_zero h imm ▸ taken⟩

theorem microStep_of_halt {s : State} (h : s.macrostate = .halt) : microStep s = .next s := by
  simp only [microStep, h]

theorem atBoundary_of_halt {s : State} (h : s.macrostate = .halt) : s.atBoundary = true :=
  (atBoundary_iff s).2 (.inr h)

/-- A step in Halt changes nothing (R190, D9). -/
theorem step_of_halt {s : State} (h : s.macrostate = .halt) : step s = .next s :=
  step_eq_next_of_microStep (microStep_of_halt h) (atBoundary_of_halt h)

/-- Settles O45: HALT moves the sequencer only, to where a step changes nothing. -/
theorem haltStopsTheMachine : Obligations.HaltStopsTheMachine := fun s =>
  ⟨fun _ hop => decode_of_fixed hop (by decide) .halt,
    s.goto .halt .m0, rfl, rfl, rfl, fun _ => rfl, fun _ => rfl, rfl, rfl,
    sameLatches_goto (sameLatches_refl s) _ _, rfl, step_of_halt rfl⟩

/-- Settles O46: a no-operation has no effect but the sequencer's move. -/
theorem unrecognizedOpcodesDoNothing : Obligations.UnrecognizedOpcodesDoNothing := by
  intro i s hi
  obtain ⟨t, ht, hregs, hmem, hsw, hpc, hlatches, hfetch⟩ := toFetch_spec s
  exact ⟨t, (exec_of_noOperation hi s).trans ht, hregs, hmem, hsw, hpc, hlatches, hfetch, statusOf_of_noOperation hi s⟩

/-! ### Anomalies (R200, R201) -/

section anomalies

variable (i : Instr) (s : State)

/-- The no-operations are the instructions whose opcode is neither numbered by the source nor a branch's (R82). -/
theorem mem_noOperations_iff_opcode (ops : Config.BranchOpcodes) :
    i ∈ noOperations ↔
      (i.opcode ops).toNat ∉ Config.fixedOpcodes ∧ i.opcode ops ≠ ops.opBr ∧ i.opcode ops ≠ ops.opBrz := by
  have row : rowOfOpcode ops (i.opcode ops) = i.row := rowOfOpcode_opcodeOfRow ops i.row
  constructor
  case mp =>
    intro hi
    obtain ⟨hbr, hbrz⟩ := row_ne_branch_of_noOperation hi
    refine ⟨fun h => row_not_fixed_of_noOperation hi ?_, fun h => hbr ?_, fun h => hbrz ?_⟩
    · rwa [← row, rowOfOpcode_fixed ops h]
    · rw [← row, h, rowOfOpcode_br]
    · rw [← row, h, rowOfOpcode_brz]
  case mpr =>
    rintro ⟨hf, hbr, hbrz⟩
    cases i using instr_cases with
    | nop i hi => exact hi
    | br imm => exact absurd (opcodeOfRow_br ops) hbr
    | brz imm => exact absurd (opcodeOfRow_brz ops) hbrz
    | ldi | ld | st | add | sub | and | or | not | halt =>
      rw [Instr.opcode, opcodeOfRow_fixed ops (by simp [Instr.row, Config.fixedOpcodes])] at hf
      exact absurd (by simp [Instr.row, Config.fixedOpcodes]) hf

theorem accessStatus_eq_outOfBounds_iff (sr1 : RegIdx) (imm : Int) :
    accessStatus s sr1 imm = .addressOutOfBounds ↔
      (effectiveAddress (s.reg sr1) imm).toInt < 0 ∨ 100 ≤ (effectiveAddress (s.reg sr1) imm).toInt := by
  rw [← inBounds_eq_false_iff, accessStatus]
  cases inBounds (effectiveAddress (s.reg sr1) imm) <;> simp

theorem accessStatus_ne_noOperation (sr1 : RegIdx) (imm : Int) : accessStatus s sr1 imm ≠ .noOperation := by
  rw [accessStatus]
  split <;> simp

theorem statusOf_eq_outOfBounds_iff :
    statusOf i s = .addressOutOfBounds ↔ ∃ dr sr1 imm, (i = .ld dr sr1 imm ∨ i = .st dr sr1 imm) ∧
      ((effectiveAddress (s.reg sr1) imm).toInt < 0 ∨ 100 ≤ (effectiveAddress (s.reg sr1) imm).toInt) := by
  cases i using instr_cases with
  | nop i hi =>
    rw [statusOf_of_noOperation hi]
    refine ⟨fun h => absurd h (by simp), ?_⟩
    rintro ⟨dr, sr1, imm, rfl | rfl, -⟩ <;> exact absurd hi (by simp [noOperations])
  | ld dr sr1 imm => simp [statusOf, accessStatus_eq_outOfBounds_iff]
  | st dr sr1 imm => simp [statusOf, accessStatus_eq_outOfBounds_iff]
  | ldi | add | sub | and | or | not | br | brz | halt => simp [statusOf]

theorem statusOf_eq_noOperation_iff : statusOf i s = .noOperation ↔ i ∈ noOperations := by
  cases i using instr_cases with
  | nop i hi => simp [statusOf_of_noOperation hi, hi]
  | ld | st => simp [statusOf, accessStatus_ne_noOperation, noOperations]
  | ldi | add | sub | and | or | not | br | brz | halt => simp [statusOf, noOperations]

theorem mnemonicOf_eq_none_iff : mnemonicOf i = none ↔ i ∈ noOperations := by
  cases i using instr_cases with
  | nop i hi => simp [mnemonicOf_of_noOperation hi, hi]
  | ldi | ld | st | add | sub | and | or | not | br | brz | halt => simp [mnemonicOf, noOperations]

end anomalies

/-- Settles O47: which instructions are accesses, and which are no-operations, settles what is reported. -/
theorem anomaliesAreReported : Obligations.AnomaliesAreReported := fun i s =>
  ⟨statusOf_eq_outOfBounds_iff i s, (statusOf_eq_noOperation_iff i s).trans (mem_noOperations_iff_opcode i _),
    (mnemonicOf_eq_none_iff i).trans (statusOf_eq_noOperation_iff i s).symm⟩

end Sys2Proof.Proofs
end

section
/-! PROOFS. The instruction cycle (R120 to R137): the rows of the micro-step, and how they compose into a step. -/

namespace Sys2Proof.Proofs

open Sys2Proof.Machine Sys2Proof.Laws Sys2Proof.Safety

/-! ### The rows of the transition table (R120) -/

/-- Where Fetch's guard finds PC (R121, R132, R133). -/
theorem pc_cases (s : State) : 100 ≤ s.pc.toInt ∨ s.pc.toInt < 0 ∨ PCInMemory s := by
  unfold PCInMemory
  omega

theorem fetchGuard_of_negative {s : State} (h : s.pc.toInt < 0) (f : State → Result) :
    fetchGuard s f = .fault .fetchAddressInvalid := by
  simp [fetchGuard, h, show ¬ (100 : Int) ≤ s.pc.toInt by omega]

/-- The state after Fetch's memory read (R123). -/
def irLoaded (s : State) : State := { s with ir := s.mem.read s.pc.toNat, microstate := .m3 }

section rows

variable {s : State}

theorem microStep_of_atFetch (hs : AtFetch s) : microStep s = fetchGuard s fun s => .next (fetch0 s) := by
  simp only [microStep, hs.1, hs.2]

theorem microStep_of_negative (hs : AtFetch s) (h : s.pc.toInt < 0) : microStep s = .fault .fetchAddressInvalid := by
  rw [microStep_of_atFetch hs, fetchGuard_of_negative h]

theorem microStep_m0 (hs : AtFetch s) (h : PCInMemory s) : microStep s = .next (fetch0 s) := by
  rw [microStep_of_atFetch hs, fetchGuard_pass h]

theorem microStep_m1 (hs : s.macrostate = .fetch) (hm : s.microstate = .m1) : microStep s = .next (fetch1 s) := by
  simp only [microStep, hs, hm]

theorem microStep_m2 (hs : s.macrostate = .fetch) (hm : s.microstate = .m2) (h : PCInMemory s) :
    microStep s = .next (irLoaded s) := by
  simp only [microStep, hs, hm]
  exact fetch2_eq_next.2 ⟨inBounds_of_pcInMemory h, rfl⟩

theorem microStep_m3 (hs : s.macrostate = .fetch) (hm : s.microstate = .m3) : microStep s = .next (fetch3 s) := by
  simp only [microStep, hs, hm]

theorem microStep_exit (hs : s.macrostate = .fetch) (hm : s.microstate = .exit) :
    microStep s = .next (fetchExit s) := by
  simp only [microStep, hs, hm]

theorem microStep_decode (hs : s.macrostate = .decode) : microStep s = .next (decodeStep s) := by
  simp only [microStep, hs]

theorem microStep_execute (hs : s.macrostate = .execute) : microStep s = executeStep s := by
  simp only [microStep, hs]

theorem executeStep_of_toInstr {i : Instr} (h : s.dec.toInstr s.params.opcodes = some i) :
    executeStep s = exec i s := by
  simp only [executeStep, h]

theorem executeStep_fetched {w : Word} {i : Instr} (h : decode s.params.opcodes w = some i) :
    executeStep (s.fetched w) = exec i (s.fetched w) :=
  executeStep_of_toInstr (s := s.fetched w) h

end rows

/-- Settles O19: the rows one by one, a microstate that a row leaves put being the one it would write. -/
theorem microStepTable : Obligations.MicroStepTable := by
  intro s
  refine ⟨microStep_of_pc_exhausted, microStep_of_negative, microStep_m0, microStep_m1, fun hs hm h => ?m2,
    fun hs hm h => ?m3, microStep_exit, fun hs hm => ?decode, fun i hs h => ?execute, microStep_of_halt⟩
  case m2 =>
    rw [microStep_m2 hs hm h, toNat_toInt_of_inBounds (inBounds_of_pcInMemory h), irLoaded]
  case m3 =>
    have hlow := (toInt_range s.aluA).1
    exact ⟨_, toInt_truncate32_of_range (by omega) (by omega), microStep_m3 hs hm⟩
  case decode =>
    rw [microStep_decode hs, ← goto_of_microstate_eq (s := { s with dec := decodeFields s.ir }) hm .execute]
    rfl
  case execute => rw [microStep_execute hs, executeStep_of_toInstr h]

/-! ### The path of a cycle from Fetch to Execute (R121 to R126) -/

/-- The state after `k` micro-steps from a cycle boundary with PC in the memory, up to where Execute begins. -/
def cyclePath (s : State) : Nat → State
  | 0 => s
  | 1 => fetch0 s
  | 2 => fetch1 (fetch0 s)
  | 3 => irLoaded (fetch1 (fetch0 s))
  | 4 => fetch3 (irLoaded (fetch1 (fetch0 s)))
  | 5 => fetchExit (fetch3 (irLoaded (fetch1 (fetch0 s))))
  | _ => s.fetched (s.mem.read s.pc.toNat)

section path

variable {s : State} (hs : AtFetch s) (hp : PCInMemory s)

include hs

theorem cyclePath_inside {k : Nat} (h0 : 1 ≤ k) (h6 : k ≤ 6) : (cyclePath s k).atBoundary = false := by
  have fetching := hs.1
  interval_cases k <;> simp [cyclePath, State.atBoundary, irLoaded, fetching]

include hp

theorem microStep_cyclePath {k : Nat} (hk : k < 6) :
    microStep (cyclePath s k) = .next (cyclePath s (k + 1)) := by
  interval_cases k
  · exact microStep_m0 hs hp
  · exact microStep_m1 hs.1 rfl
  · exact microStep_m2 hs.1 rfl hp
  · exact microStep_m3 hs.1 rfl
  · exact microStep_exit hs.1 rfl
  · exact microStep_decode rfl

theorem microSteps_cyclePath (n : Nat) {k j : Nat} (h : j + k ≤ 6) :
    microSteps (k + n) (cyclePath s j) = microSteps n (cyclePath s (j + k)) := by
  induction k generalizing j with
  | zero => rw [Nat.zero_add, Nat.add_zero]
  | succ k ih =>
    rw [Nat.add_right_comm, microSteps, microStep_cyclePath hs hp (by omega), andThen, ih (by omega),
      Nat.add_right_comm, Nat.add_assoc]

theorem toBoundary_cyclePath (n : Nat) {k j : Nat} (hj : 1 ≤ j) (h : j + k ≤ 6) :
    toBoundary (k + n) (cyclePath s j) = toBoundary n (cyclePath s (j + k)) := by
  induction k generalizing j with
  | zero => rw [Nat.zero_add, Nat.add_zero]
  | succ k ih =>
    rw [Nat.add_right_comm, toBoundary_succ (cyclePath_inside hs hj (by omega)),
      microStep_cyclePath hs hp (by omega), andThen, ih (by omega) (by omega), Nat.add_right_comm, Nat.add_assoc]

/-- A step with PC in the memory is the Execute of the word there. -/
theorem step_eq_executeStep : step s = executeStep (s.fetched (s.mem.read s.pc.toNat)) := by
  have first : step s = toBoundary 6 (cyclePath s 1) := by
    rw [step, runCycle, show microStep s = _ from microStep_cyclePath hs hp (k := 0) (by decide), andThen]
  rw [first, toBoundary_cyclePath hs hp 1 (k := 5) (by decide) (by decide),
    toBoundary_succ (cyclePath_inside hs (by decide) (by decide)), microStep_execute rfl]
  show andThen (executeStep (s.fetched (s.mem.read s.pc.toNat))) Host.Outcome.next = _
  cases executeStep (s.fetched (s.mem.read s.pc.toNat)) <;> rfl

theorem step_eq_exec {i : Instr} (hi : decode s.params.opcodes (s.mem.read s.pc.toNat) = some i) :
    step s = exec i (s.fetched (s.mem.read s.pc.toNat)) := by
  rw [step_eq_executeStep hs hp, executeStep_fetched hi]

/-- The same for the word `w` that is known to stand at PC. -/
theorem step_eq_exec_of_read {w : Word} {i : Instr} (hw : s.mem.read s.pc.toNat = w)
    (hi : decode s.params.opcodes w = some i) : step s = exec i (s.fetched w) := by
  subst hw
  exact step_eq_exec hs hp hi

/-- A step with PC in the memory runs some instruction, and that answers a next state. -/
theorem step_answers : ∃ i t, decode s.params.opcodes (s.mem.read s.pc.toNat) = some i ∧ step s = .next t ∧
    exec i (s.fetched (s.mem.read s.pc.toNat)) = .next t := by
  obtain ⟨i, hi⟩ := exists_decode s.params.opcodes (s.mem.read s.pc.toNat)
  obtain ⟨t, ht, -⟩ := executeNeverStops i (s.fetched (s.mem.read s.pc.toNat))
  exact ⟨i, t, hi, (step_eq_exec hs hp hi).trans ht, ht⟩

end path

theorem step_of_negative {s : State} (hs : AtFetch s) (h : s.pc.toInt < 0) : step s = .fault .fetchAddressInvalid :=
  andThen_eq_fault.2 (.inl (microStep_of_negative hs h))

theorem step_of_pc_exhausted {s : State} (hs : AtFetch s) (h : 100 ≤ s.pc.toInt) :
    step s = .next { s with macrostate := .halt } :=
  step_eq_next_of_microStep (microStep_of_pc_exhausted hs h) (atBoundary_of_halt rfl)

/-- Settles O20: both sides, where the guard finds PC past the memory, negative, and in the memory. -/
theorem microStepsComposeIntoCycle : Obligations.MicroStepsComposeIntoCycle := by
  intro s hs
  rcases pc_cases s with hpc | hpc | hpc
  · rw [step_of_pc_exhausted hs hpc, cycle, fetchGuard_eq_next.2 (.inl ⟨hpc, rfl⟩), goto_of_microstate_eq hs.2]
  · rw [step_of_negative hs hpc, cycle, fetchGuard_of_negative hpc]
  · rw [step_eq_executeStep hs hpc, cycle, fetchGuard_pass hpc, memRead_eq_some.2 ⟨inBounds_of_pcInMemory hpc, rfl⟩]

theorem exec_atBoundary {i : Instr} {s t : State} (h : exec i s = .next t) : t.atBoundary = true := by
  rcases exec_eq_next_cases h with ⟨-, rfl⟩ | ⟨-, u, -, rfl⟩
  · exact atBoundary_goto_halt s .m0
  · exact atBoundary_goto_fetch u

/-- Settles O21: six micro-steps along the path, and Execute for the seventh. -/
theorem completedCycleIsSevenMicroSteps : Obligations.CompletedCycleIsSevenMicroSteps := by
  intro s hs hp
  refine ⟨fun k h1 h6 => ⟨cyclePath s k, ?inside, cyclePath_inside hs h1 h6⟩, ?complete⟩
  case inside =>
    have along := microSteps_cyclePath hs hp 0 (k := k) (j := 0) (by omega)
    rwa [Nat.zero_add, Nat.add_zero] at along
  case complete =>
    obtain ⟨i, t, hi, hstep, hexec⟩ := step_answers hs hp
    refine ⟨t, ?_, exec_atBoundary hexec, hstep⟩
    have sixth : microSteps 7 s = microSteps 1 (cyclePath s 6) :=
      microSteps_cyclePath hs hp 1 (k := 6) (j := 0) (by decide)
    rw [sixth, microSteps, andThen_eq_next]
    exact ⟨t, (microStep_execute rfl).trans ((executeStep_fetched hi).trans hexec), rfl⟩

/-! ### A step from any state -/

/-- The micro-steps from `s` to the next cycle boundary, none at a boundary (R120, R236). -/
def microStepsLeft (s : State) : Nat :=
  match s.macrostate, s.microstate with
  | .fetch, .m0 => 0
  | .fetch, .m1 => 6
  | .fetch, .m2 => 5
  | .fetch, .m3 => 4
  | .fetch, .exit => 3
  | .decode, _ => 2
  | .execute, _ => 1
  | .halt, _ => 0

theorem microStepsLeft_eq_zero_iff (s : State) : microStepsLeft s = 0 ↔ s.atBoundary = true := by
  unfold microStepsLeft State.atBoundary
  cases s.macrostate <;> cases s.microstate <;> simp

theorem microStepsLeft_of_atBoundary {s : State} (h : s.atBoundary = true) : microStepsLeft s = 0 :=
  (microStepsLeft_eq_zero_iff s).2 h

/-- A micro-step begins a cycle, or brings the boundary one nearer. -/
theorem microStepsLeft_microStep {s t : State} (h : microStep s = .next t) :
    microStepsLeft t ≤ 6 ∧ (s.atBoundary = false → microStepsLeft t < microStepsLeft s) := by
  rcases microStep_eq_next.1 h with ⟨hM, hm, ⟨-, rfl⟩ | ⟨-, rfl⟩⟩ | ⟨hM, hm, rfl⟩ | ⟨hM, hm, h2⟩ | ⟨hM, hm, rfl⟩ |
    ⟨hM, hm, rfl⟩ | ⟨hM, rfl⟩ | ⟨hM, hx⟩ | ⟨hM, rfl⟩
  · simp [microStepsLeft, State.atBoundary, hM, hm]
  · simp [microStepsLeft, State.atBoundary, hM, hm]
  · simp [microStepsLeft, hM, hm]
  · obtain ⟨-, rfl⟩ := fetch2_eq_next.1 h2
    simp [microStepsLeft, hM, hm]
  · simp [microStepsLeft, hM, hm]
  · simp [microStepsLeft, hM, hm]
  · simp [microStepsLeft, hM]
  · obtain ⟨i, -, hi⟩ := executeStep_eq_next.1 hx
    rw [microStepsLeft_of_atBoundary (exec_atBoundary hi)]
    simp [microStepsLeft, hM]
  · simp [microStepsLeft, State.atBoundary, hM]

theorem toBoundary_atBoundary {n : Nat} {s t : State} (hn : microStepsLeft s ≤ n) (h : toBoundary n s = .next t) :
    t.atBoundary = true := by
  induction n generalizing s with
  | zero =>
    obtain rfl : s = t := by injection h
    exact (microStepsLeft_eq_zero_iff s).1 (Nat.le_zero.1 hn)
  | succ n ih =>
    cases hb : s.atBoundary with
    | true =>
      rw [toBoundary_of_atBoundary _ hb] at h
      obtain rfl : s = t := by injection h
      exact hb
    | false =>
      rw [toBoundary_succ hb] at h
      obtain ⟨u, hu, hrest⟩ := andThen_eq_next.1 h
      have nearer := (microStepsLeft_microStep hu).2 hb
      exact ih (by omega) hrest

/-- Settles O22: after the first micro-step the boundary is at most the six micro-steps away that a step still runs. -/
theorem stepEndsAtCycleBoundary : Obligations.StepEndsAtCycleBoundary := by
  intro s t h
  obtain ⟨u, hu, hrest⟩ := andThen_eq_next.1 h
  exact toBoundary_atBoundary (microStepsLeft_microStep hu).1 hrest

section preserved

variable {P : State → Prop} (hP : ∀ s t, P s → microStep s = .next t → P t)

include hP

theorem toBoundary_preserves {n : Nat} {s t : State} (hs : P s) (h : toBoundary n s = .next t) : P t := by
  induction n generalizing s with
  | zero =>
    obtain rfl : s = t := by injection h
    exact hs
  | succ n ih =>
    cases hb : s.atBoundary with
    | true =>
      rw [toBoundary_of_atBoundary _ hb] at h
      obtain rfl : s = t := by injection h
      exact hs
    | false =>
      rw [toBoundary_succ hb] at h
      obtain ⟨u, hu, hrest⟩ := andThen_eq_next.1 h
      exact ih (hP s u hs hu) hrest

/-- What every micro-step keeps, every step keeps. -/
theorem step_preserves {s t : State} (hs : P s) (h : step s = .next t) : P t := by
  obtain ⟨u, hu, hrest⟩ := andThen_eq_next.1 h
  exact toBoundary_preserves hP (hP s u hs hu) hrest

end preserved

/-! ### What a micro-step leaves unchanged -/

/-- The state that Fetch and Decode do not write: the registers, the memory and the status word (R21), the datapath
registers that nothing writes (R29, R31, R32), and the parameters (R8). -/
structure SameOutsideExecute (s t : State) : Prop where
  regs : t.regs = s.regs
  mem : t.mem = s.mem
  sw : t.sw = s.sw
  mdr : t.mdr = s.mdr
  aluB : t.aluB = s.aluB
  aluR : t.aluR = s.aluR
  params : t.params = s.params

theorem microStep_outside_execute {s t : State} (hs : s.macrostate ≠ .execute) (h : microStep s = .next t) :
    SameOutsideExecute s t := by
  rcases microStep_eq_next.1 h with ⟨-, -, ⟨-, rfl⟩ | ⟨-, rfl⟩⟩ | ⟨-, -, rfl⟩ | ⟨-, -, h2⟩ | ⟨-, -, rfl⟩ |
    ⟨-, -, rfl⟩ | ⟨-, rfl⟩ | ⟨hM, -⟩ | ⟨-, rfl⟩
  · exact ⟨rfl, rfl, rfl, rfl, rfl, rfl, rfl⟩
  · exact ⟨rfl, rfl, rfl, rfl, rfl, rfl, rfl⟩
  · exact ⟨rfl, rfl, rfl, rfl, rfl, rfl, rfl⟩
  · obtain ⟨-, rfl⟩ := fetch2_eq_next.1 h2
    exact ⟨rfl, rfl, rfl, rfl, rfl, rfl, rfl⟩
  · exact ⟨rfl, rfl, rfl, rfl, rfl, rfl, rfl⟩
  · exact ⟨rfl, rfl, rfl, rfl, rfl, rfl, rfl⟩
  · exact ⟨rfl, rfl, rfl, rfl, rfl, rfl, rfl⟩
  · exact absurd hM hs
  · exact ⟨rfl, rfl, rfl, rfl, rfl, rfl, rfl⟩

/-- Settles O27: no row but Execute's writes the program's state. -/
theorem onlyExecuteWritesProgramState : Obligations.OnlyExecuteWritesProgramState := by
  intro s t hs h
  obtain ⟨hregs, hmem, hsw, -, -, -, -⟩ := microStep_outside_execute hs h
  exact ⟨hregs, hmem, hsw⟩

/-- In Execute too, MDR, ALU_B, ALU_R and the parameters stay (R29, R31, R32, R8). -/
theorem microStep_keeps {s t : State} (h : microStep s = .next t) :
    t.mdr = s.mdr ∧ t.aluB = s.aluB ∧ t.aluR = s.aluR ∧ t.params = s.params := by
  by_cases hM : s.macrostate = .execute
  · rw [microStep_execute hM] at h
    obtain ⟨i, -, hi⟩ := executeStep_eq_next.1 h
    have latches := executeKeepsTheLatches i s t hi
    exact ⟨latches.mdr, latches.aluB, latches.aluR, latches.params⟩
  · have same := microStep_outside_execute hM h
    exact ⟨same.mdr, same.aluB, same.aluR, same.params⟩

theorem step_keeps {s t : State} (h : step s = .next t) :
    t.mdr = s.mdr ∧ t.aluB = s.aluB ∧ t.aluR = s.aluR ∧ t.params = s.params := by
  apply step_preserves (P := fun u => u.mdr = s.mdr ∧ u.aluB = s.aluB ∧ u.aluR = s.aluR ∧ u.params = s.params)
    (fun u v hu huv => ?_) ⟨rfl, rfl, rfl, rfl⟩ h
  obtain ⟨hmdr, haluB, haluR, hparams⟩ := microStep_keeps huv
  rwa [hmdr, haluB, haluR, hparams]

/-- Settles O32: every micro-step keeps the first three, and Execute keeps what Fetch latched. -/
theorem datapathAfterAStep : Obligations.DatapathAfterAStep := by
  refine ⟨fun s t h => ?unwritten, fun s hs hp => ?fetched⟩
  case unwritten =>
    obtain ⟨hmdr, haluB, haluR, -⟩ := step_keeps h
    exact ⟨hmdr, haluB, haluR⟩
  case fetched =>
    obtain ⟨i, t, -, hstep, hexec⟩ := step_answers hs hp
    have latches := executeKeepsTheLatches i _ t hexec
    rw [toNat_toInt_of_inBounds (inBounds_of_pcInMemory hp)]
    exact ⟨t, hstep, latches.mar, latches.aluA, latches.ir⟩

/-! ### The two ways into Halt (R129) -/

section recordFields

variable {d : Decoded} {i : Instr}

theorem withDrImm_eq_some {f : RegIdx → Int → Instr} (h : d.withDrImm f = some i) : ∃ dr imm, f dr imm = i := by
  unfold Decoded.withDrImm at h
  split at h
  · exact ⟨_, _, Option.some.inj h⟩
  · cases h

theorem withDrSr1Imm_eq_some {f : RegIdx → RegIdx → Int → Instr} (h : d.withDrSr1Imm f = some i) :
    ∃ dr sr1 imm, f dr sr1 imm = i := by
  unfold Decoded.withDrSr1Imm at h
  split at h
  · exact ⟨_, _, _, Option.some.inj h⟩
  · cases h

theorem withDrSr1Sr2_eq_some {f : RegIdx → RegIdx → RegIdx → Instr} (h : d.withDrSr1Sr2 f = some i) :
    ∃ dr sr1 sr2, f dr sr1 sr2 = i := by
  unfold Decoded.withDrSr1Sr2 at h
  split at h
  · exact ⟨_, _, _, Option.some.inj h⟩
  · cases h

theorem withDrSr1_eq_some {f : RegIdx → RegIdx → Instr} (h : d.withDrSr1 f = some i) : ∃ dr sr1, f dr sr1 = i := by
  unfold Decoded.withDrSr1 at h
  split at h
  · exact ⟨_, _, Option.some.inj h⟩
  · cases h

theorem withImm_eq_some {f : Int → Instr} (h : d.withImm f = some i) : ∃ imm, f imm = i := by
  unfold Decoded.withImm at h
  split at h
  · exact ⟨_, Option.some.inj h⟩
  · cases h

/-- Whatever fields a record holds, a row gives none but its own instruction. -/
theorem row_of_ofRow {row : BitVec 5} (h : d.ofRow row = some i) : i.row = row := by
  rcases row_cases row with ⟨j, hj, rfl⟩ | hf | rfl | rfl
  · rw [ofRow_of_noOperation hj] at h
    rw [Option.some.inj h]
  · rcases fixed_row_cases row hf with rfl | rfl | rfl | rfl | rfl | rfl | rfl | rfl | rfl
    · obtain ⟨_, _, rfl⟩ := withDrImm_eq_some h; rfl
    · obtain ⟨_, _, _, rfl⟩ := withDrSr1Imm_eq_some h; rfl
    · obtain ⟨_, _, _, rfl⟩ := withDrSr1Imm_eq_some h; rfl
    · obtain ⟨_, _, _, rfl⟩ := withDrSr1Sr2_eq_some h; rfl
    · obtain ⟨_, _, _, rfl⟩ := withDrSr1Sr2_eq_some h; rfl
    · obtain ⟨_, _, _, rfl⟩ := withDrSr1Sr2_eq_some h; rfl
    · obtain ⟨_, _, _, rfl⟩ := withDrSr1Sr2_eq_some h; rfl
    · obtain ⟨_, _, rfl⟩ := withDrSr1_eq_some h; rfl
    · rw [← Option.some.inj h]; rfl
  · obtain ⟨_, rfl⟩ := withImm_eq_some h; rfl
  · obtain ⟨_, rfl⟩ := withImm_eq_some h; rfl

theorem eq_halt_of_row : ∀ {i : Instr}, i.row = 29#5 → i = .halt := by
  intro i hi
  cases i with
  | halt => rfl
  | _ => exact absurd hi (by simp [Instr.row])

/-- A record runs HALT exactly under opcode 29, which no branch can take. -/
theorem toInstr_eq_halt_iff {ops : Config.BranchOpcodes} (h : d.toInstr ops = some i) :
    i = .halt ↔ d.opcode = 29#5 := by
  have row : i.row = rowOfOpcode ops d.opcode := row_of_ofRow h
  have number : opcodeOfRow ops 29#5 = 29#5 := opcodeOfRow_fixed ops (by decide)
  constructor
  · rintro rfl
    rw [← number, ← rowOfOpcode_eq_iff, ← row]
    rfl
  · intro hop
    apply eq_halt_of_row
    rw [row, rowOfOpcode_eq_iff, number, hop]

end recordFields

theorem exec_halts_iff {i : Instr} {s t : State} (h : exec i s = .next t) : t.macrostate = .halt ↔ i = .halt := by
  rcases exec_eq_next_cases h with ⟨hi, rfl⟩ | ⟨hi, u, -, rfl⟩
  · simp [hi]
  · simp [hi]

/-- Settles O26: among the rows, only the guard of Fetch and Execute of HALT write Halt. -/
theorem haltIsReachedInTwoWays : Obligations.HaltIsReachedInTwoWays := by
  intro s t hs h
  rcases microStep_eq_next.1 h with ⟨hM, hm, ⟨hpc, rfl⟩ | ⟨hpc, rfl⟩⟩ | ⟨hM, hm, rfl⟩ | ⟨hM, hm, h2⟩ | ⟨hM, hm, rfl⟩ |
    ⟨hM, hm, rfl⟩ | ⟨hM, rfl⟩ | ⟨hM, hx⟩ | ⟨hM, -⟩
  · simp [AtFetch, hM, hm, hpc]
  · simp [AtFetch, hM, hpc.2]
  · simp [AtFetch, hM, hm]
  · obtain ⟨-, rfl⟩ := fetch2_eq_next.1 h2
    simp [AtFetch, hM, hm]
  · simp [AtFetch, hM, hm]
  · simp [AtFetch, hM, hm]
  · simp [AtFetch, hM]
  · obtain ⟨i, hdec, hexec⟩ := executeStep_eq_next.1 hx
    rw [exec_halts_iff hexec, toInstr_eq_halt_iff hdec]
    simp [AtFetch, hM]
  · exact absurd hM hs

/-! ### The step, instruction by instruction (R135, R187) -/

/-- The advanced PC of a fetch from the memory does not wrap (R124). -/
theorem fetched_pc_toInt {s : State} (hp : PCInMemory s) (w : Word) : (s.fetched w).pc.toInt = s.pc.toInt + 1 := by
  obtain ⟨h0, h1⟩ := hp
  exact toInt_truncate32_of_range (by omega) (by omega)

/-- Settles O18: the state is the one that Fetch and Decode leave. -/
theorem stepRunsTheDecodedInstruction : Obligations.StepRunsTheDecodedInstruction := by
  intro s i hs hp hi
  rw [toNat_toInt_of_inBounds (inBounds_of_pcInMemory hp)] at hi ⊢
  exact ⟨s.fetched _, step_eq_exec hs hp hi, fetched_pc_toInt hp _, rfl, rfl, rfl, rfl, rfl, rfl, rfl, rfl, rfl, rfl,
    rfl, rfl, rfl⟩

theorem stepRecord_of_atFetch {s : State} (hs : AtFetch s) :
    stepRecord s = (s.memRead s.pc).bind fun w => executeRecord (s.fetched w) := by
  simp only [stepRecord, hs.1, hs.2]
  cases s.memRead s.pc <;> rfl

theorem executeRecord_fetched {s : State} {w : Word} {i : Instr} (h : decode s.params.opcodes w = some i) :
    executeRecord (s.fetched w) = some { mnemonic := mnemonicOf i, status := statusOf i (s.fetched w), ir := w } := by
  have dispatch : (s.fetched w).dec.toInstr (s.fetched w).params.opcodes = some i := h
  simp only [executeRecord, dispatch, State.fetched_ir]

/-- Settles O48: the record is made in the state that Execute begins in. -/
theorem traceRecordOfACycle : Obligations.TraceRecordOfACycle := by
  refine ⟨fun s i hs hp hi => ?record, fun s hs hp => ?none⟩
  case record =>
    have hin := inBounds_of_pcInMemory hp
    rw [toNat_toInt_of_inBounds hin] at hi ⊢
    refine ⟨s.fetched _, step_eq_exec hs hp hi, rfl, ?_⟩
    rw [stepRecord_of_atFetch hs, memRead_eq_some.2 ⟨hin, rfl⟩, Option.bind_some, executeRecord_fetched hi]
  case none =>
    have hout := Bool.eq_false_iff.2 fun hin => hp ((inBounds_iff _).1 hin)
    rw [stepRecord_of_atFetch hs, memRead_eq_none.2 hout, Option.bind_none]

/-- Settles O17: the store leaves the machine at Fetch with the stored word at PC. -/
theorem storedWordIsFetchedNext : Obligations.StoredWordIsFetchedNext := by
  intro s dr sr1 imm i hs hp haddr hi
  have hin : inBounds (effectiveAddress (s.reg sr1) imm) = true := haddr ▸ inBounds_of_pcInMemory hp
  refine ⟨_, execSt_eq_next.2 (.inl ⟨hin, rfl⟩), rfl, step_eq_exec_of_read (atFetch_goto _) ?inMemory ?word hi⟩
  case inMemory => exact hp
  case word =>
    rw [haddr]
    exact (read_write hs _ _ _).trans (if_pos rfl)

/-- What the model's placement leaves (log 19): a Fetch with PC in the memory and the word there. -/
theorem placeWord_spec {s : State} (hs : s.mem.wf = true) (w : Word) :
    AtFetch (s.placeWord w) ∧ PCInMemory (s.placeWord w) ∧ (s.placeWord w).mem.read (s.placeWord w).pc.toNat = w ∧
      (PCInMemory s → (s.placeWord w).pc = s.pc) := by
  unfold State.placeWord
  split
  case isTrue h =>
    exact ⟨atFetch_goto _, (inBounds_iff _).1 h, (read_write hs _ w _).trans (if_pos rfl), fun _ => rfl⟩
  case isFalse h =>
    refine ⟨atFetch_goto _, ⟨?_, ?_⟩, (read_write hs 0 w _).trans (if_pos rfl), fun hp => ?_⟩
    · show 0 ≤ (0#32).toInt
      decide
    · show (0#32).toInt < 100
      decide
    · exact absurd (inBounds_of_pcInMemory hp) h

/-- What the placement leaves unchanged. -/
theorem placeWord_frame (s : State) (w : Word) :
    (s.placeWord w).regs = s.regs ∧ (s.placeWord w).sw = s.sw ∧ (s.placeWord w).params = s.params := by
  unfold State.placeWord
  split <;> exact ⟨rfl, rfl, rfl⟩

/-- Settles O60: the placed word is the one that the step fetches. -/
theorem placedWordRunsNext : Obligations.PlacedWordRunsNext := by
  intro s w i hs hi
  have placed : s.withFetchWord 32 w.toNat = s.placeWord w := by
    rw [State.withFetchWord, Nat.mod_eq_of_lt w.isLt, BitVec.ofNat_toNat, BitVec.setWidth_eq]
  obtain ⟨hfetch, hp, hword, hpc⟩ := placeWord_spec hs w
  obtain ⟨hregs, hsw, hparams⟩ := placeWord_frame s w
  rw [placed]
  refine ⟨_, step_eq_exec_of_read hfetch hp hword (hparams ▸ hi), rfl, fun r => ?_, hsw, fun hpcs => ?_⟩
  · rw [State.fetched_reg, State.reg, State.reg, hregs]
  · rw [fetched_pc_toInt hp, hpc hpcs]

end Sys2Proof.Proofs
end

section
/-! PROOFS. The invariant of the machine (R39), Halt (R129) and the host's operations (R180 to R190). -/

namespace Sys2Proof.Proofs

open Sys2Proof.Machine Sys2Proof.Laws Sys2Proof.Safety

/-! ### The invariant, in its two parts -/

/-- The part of the invariant that speaks of the memory and the status word (R25, R36, R109, R110). -/
structure DataInv (s : State) : Prop where
  mem_wf : s.mem.wf = true
  sw_low : s.sw.extractLsb' 0 28 = 0#28
  carry_eq_overflow : s.flags.c = s.flags.v
  zero_excludes : s.flags.z = true → s.flags.n = false ∧ s.flags.c = false

theorem dataInv_of_coreInv {s : State} (h : CoreInv s) : DataInv s :=
  ⟨h.mem_wf, h.sw_low, h.carry_eq_overflow, h.zero_excludes⟩

/-- The data part is about the memory, the status word and the places of the flags alone. -/
theorem DataInv.congr {s t : State} (h : DataInv s) (hmem : t.mem = s.mem) (hsw : t.sw = s.sw)
    (hparams : t.params = s.params) : DataInv t := by
  have flags : t.flags = s.flags := by rw [State.flags, State.flags, hsw, hparams]
  exact ⟨hmem ▸ h.mem_wf, hsw ▸ h.sw_low, flags ▸ h.carry_eq_overflow, flags ▸ h.zero_excludes⟩

theorem DataInv.goto {s : State} (h : DataInv s) (m : Macrostate) (k : Microstate) : DataInv (s.goto m k) :=
  h.congr rfl rfl rfl

/-- At a cycle boundary with Microstate 0 the sequencer has nothing in progress. -/
theorem DataInv.coreInv_of_boundary {s : State} (h : DataInv s) (hm : s.microstate = .m0)
    (hM : s.macrostate ≠ .execute) : CoreInv s where
  mem_wf := h.mem_wf
  sw_low := h.sw_low
  carry_eq_overflow := h.carry_eq_overflow
  zero_excludes := h.zero_excludes
  micro_zero := fun _ => hm
  fetching := fun _ => by simp only [FetchInProgress, hm]
  decoded := fun he => absurd he hM

/-- Inside Fetch the sequencer part is what Fetch has done. -/
theorem DataInv.coreInv_of_fetching {s : State} (h : DataInv s) (hM : s.macrostate = .fetch)
    (hf : FetchInProgress s) : CoreInv s where
  mem_wf := h.mem_wf
  sw_low := h.sw_low
  carry_eq_overflow := h.carry_eq_overflow
  zero_excludes := h.zero_excludes
  micro_zero := fun hne => absurd hM hne
  fetching := fun _ => hf
  decoded := fun he => absurd (hM.symm.trans he) (by decide)

/-- The flags of any wide value are one of the combinations that can occur (R109, R110). -/
theorem dataInv_setFlags {s : State} (h : s.mem.wf = true) (x : Int) : DataInv (s.setFlags x) where
  mem_wf := h
  sw_low := pack_low _ _
  carry_eq_overflow := by rw [setFlags_flags, deriveFlags_c, deriveFlags_v]
  zero_excludes := by
    rw [setFlags_flags, deriveFlags_z, decide_eq_true_iff]
    rintro rfl
    decide

theorem Effect.dataInv {i : Instr} {s u : State} (h : Effect i s u) (hs : DataInv s) : DataInv u := by
  cases h
  case nothing => exact hs
  case register => exact hs.congr rfl rfl rfl
  case flags x _ _ _ => exact (dataInv_setFlags hs.mem_wf _).congr rfl rfl rfl
  case memory ha _ => exact ⟨wf_write hs.mem_wf ha _, hs.sw_low, hs.carry_eq_overflow, hs.zero_excludes⟩
  case pc => exact hs.congr rfl rfl rfl

theorem exec_coreInv {i : Instr} {s t : State} (hs : DataInv s) (h : exec i s = .next t) : CoreInv t := by
  rcases exec_eq_next_cases h with ⟨-, rfl⟩ | ⟨-, u, hu, rfl⟩
  · exact (hs.goto .halt .m0).coreInv_of_boundary rfl (by simp)
  · exact ((hu.dataInv hs).goto .fetch .m0).coreInv_of_boundary rfl (by simp)

/-! ### Every micro-step and every step keeps it -/

/-- Settles O52: outside Execute the data stay and each row of Fetch does what the next microstate says, and Execute
ends at a boundary. -/
theorem microStepKeepsTheInvariant : Obligations.MicroStepKeepsTheInvariant := by
  intro s t hs h
  by_cases hx : s.macrostate = .execute
  · rw [microStep_execute hx] at h
    obtain ⟨i, -, hexec⟩ := executeStep_eq_next.1 h
    exact exec_coreInv (dataInv_of_coreInv hs) hexec
  have same := microStep_outside_execute hx h
  have data : DataInv t := (dataInv_of_coreInv hs).congr same.mem same.sw same.params
  rcases microStep_eq_next.1 h with ⟨hM, hm, ⟨hpc, rfl⟩ | ⟨hp, rfl⟩⟩ | ⟨hM, hm, rfl⟩ | ⟨hM, hm, h2⟩ | ⟨hM, hm, rfl⟩ |
    ⟨hM, hm, rfl⟩ | ⟨hM, rfl⟩ | ⟨hM, -⟩ | ⟨hM, rfl⟩
  · exact data.coreInv_of_boundary rfl (by simp)
  · exact data.coreInv_of_fetching hM ⟨hp, rfl⟩
  · have progress := hs.fetching hM
    simp only [FetchInProgress, hm] at progress
    obtain ⟨hp, hmar⟩ := progress
    exact data.coreInv_of_fetching hM ⟨hp, hmar, rfl⟩
  · obtain ⟨-, rfl⟩ := fetch2_eq_next.1 h2
    have progress := hs.fetching hM
    simp only [FetchInProgress, hm] at progress
    obtain ⟨hp, hmar, haluA⟩ := progress
    exact data.coreInv_of_fetching hM ⟨hp, hmar, haluA, rfl⟩
  · have progress := hs.fetching hM
    simp only [FetchInProgress, hm] at progress
    obtain ⟨hp, hmar, haluA, -⟩ := progress
    have advanced : (fetch3 s).pc.toInt = s.aluA.toInt + 1 := by
      obtain ⟨h0, h1⟩ := hp
      rw [← haluA] at h0 h1
      exact toInt_truncate32_of_range (by omega) (by omega)
    exact data.coreInv_of_fetching hM ⟨haluA.trans hmar.symm, advanced⟩
  · exact data.coreInv_of_boundary rfl (by simp)
  · exact ⟨data.mem_wf, data.sw_low, data.carry_eq_overflow, data.zero_excludes, fun _ => rfl,
      fun he => absurd he (by simp), fun _ => rfl⟩
  · exact absurd hM hx
  · exact hs

/-- Settles O53: a step is a sequence of micro-steps, each of which keeps the invariant. -/
theorem stepKeepsTheInvariant : Obligations.StepKeepsTheInvariant := fun _ _ hs h =>
  step_preserves microStepKeepsTheInvariant hs h

/-- Settles O49: construction sets each field to the table's value. -/
theorem resetLeavesTheTable : Obligations.ResetLeavesTheTable := fun params initRegs initMem =>
  ⟨State.construct params initRegs initMem, rfl, rfl, rfl, rfl, rfl, rfl, rfl, rfl, rfl, rfl, rfl, rfl, rfl, rfl⟩

/-- A status word of 0 has every flag clear, wherever the flags stand. -/
theorem unpack_zero (l : Config.FlagLayout) : unpack l 0 = ⟨false, false, false, false⟩ := by
  simp [unpack]

/-- Settles O50: the memory is canonical by hypothesis, and no flag is set. -/
theorem resetMeetsTheInvariant : Obligations.ResetMeetsTheInvariant := by
  intro params initRegs initMem hmem
  have flags : (State.construct params initRegs initMem).flags = ⟨false, false, false, false⟩ := unpack_zero _
  have data : DataInv (State.construct params initRegs initMem) := by
    refine ⟨hmem, ?_, ?_, ?_⟩
    · show (0#32).extractLsb' 0 28 = 0#28
      decide
    · rw [flags]
    · rw [flags]
      decide
  exact data.coreInv_of_boundary rfl (by simp [State.construct])

/-! ### The only stop (R137, R204) -/

/-- The invariant puts PC in the memory where Fetch reads it, and a decodable record where Execute reads it. -/
theorem microStep_answers {s : State} (hs : CoreInv s) (h : ¬ (AtFetch s ∧ s.pc.toInt < 0)) :
    ∃ t, microStep s = .next t := by
  cases hM : s.macrostate with
  | fetch =>
    have progress := hs.fetching hM
    cases hm : s.microstate with
    | m0 =>
      rcases pc_cases s with hpc | hpc | hpc
      · exact ⟨_, microStep_of_pc_exhausted ⟨hM, hm⟩ hpc⟩
      · exact absurd ⟨⟨hM, hm⟩, hpc⟩ h
      · exact ⟨_, microStep_m0 ⟨hM, hm⟩ hpc⟩
    | m1 => exact ⟨_, microStep_m1 hM hm⟩
    | m2 =>
      simp only [FetchInProgress, hm] at progress
      exact ⟨_, microStep_m2 hM hm progress.1⟩
    | m3 => exact ⟨_, microStep_m3 hM hm⟩
    | exit => exact ⟨_, microStep_exit hM hm⟩
  | decode => exact ⟨_, microStep_decode hM⟩
  | execute =>
    obtain ⟨i, hi⟩ := exists_decode s.params.opcodes s.ir
    obtain ⟨t, ht, -⟩ := executeNeverStops i s
    rw [decode, ← hs.decoded hM] at hi
    exact ⟨t, by rw [microStep_execute hM, executeStep_of_toInstr hi, ht]⟩
  | halt => exact ⟨s, microStep_of_halt hM⟩

theorem toBoundary_answers (n : Nat) {s : State} (hs : CoreInv s) : ∃ t, toBoundary n s = .next t := by
  induction n generalizing s with
  | zero => exact ⟨s, rfl⟩
  | succ n ih =>
    cases hb : s.atBoundary with
    | true => exact ⟨s, toBoundary_of_atBoundary _ hb⟩
    | false =>
      have inside : ¬ (AtFetch s ∧ s.pc.toInt < 0) := fun hfetch => by
        rw [(atBoundary_iff s).2 (.inl hfetch.1)] at hb
        cases hb
      obtain ⟨u, hu⟩ := microStep_answers hs inside
      obtain ⟨t, ht⟩ := ih (microStepKeepsTheInvariant s u hs hu)
      exact ⟨t, (toBoundary_succ hb n).trans (andThen_eq_next.2 ⟨u, hu, ht⟩)⟩

/-- Settles O24: the guard's fault is the first micro-step's, and from any other state every micro-step answers. -/
theorem onlyNegativePCFaults : Obligations.OnlyNegativePCFaults := by
  intro s hs
  refine ⟨fun h => step_of_negative h.1 h.2, fun h => ?_⟩
  obtain ⟨u, hu⟩ := microStep_answers hs h
  obtain ⟨t, ht⟩ := toBoundary_answers 6 (microStepKeepsTheInvariant s u hs hu)
  exact ⟨t, andThen_eq_next.2 ⟨u, hu, ht⟩⟩

/-! ### The host's writes (R181, R182) -/

theorem loadProgram_eq_next {words : List Word} {s t : State} :
    loadProgram words s = .next t ↔
      words.length ≤ 100 ∧ s.atBoundary = true ∧ t = (s.setMem (s.mem.writeAll 0 words)).setPC 0 := by
  unfold loadProgram
  split
  case isTrue h => rw [hostWrite_eq_next, and_iff_right h]
  case isFalse h => simp [show ¬ words.length ≤ 100 from h]

theorem resetMemory_eq_next {fill : Vector Word 100} {s t : State} :
    resetMemory fill s = .next t ↔ s.atBoundary = true ∧ t = s.setMem (s.mem.writeAll 0 fill.toList) :=
  hostWrite_eq_next

/-- A bulk write of the memory, with or without a write of PC, keeps the invariant at a cycle boundary. -/
theorem coreInv_of_memory_write {s t : State} (hs : CoreInv s) (hb : s.atBoundary = true) (hmem : t.mem.wf = true)
    (hsw : t.sw = s.sw) (hparams : t.params = s.params) (hM : t.macrostate = s.macrostate)
    (hm : t.microstate = s.microstate) : CoreInv t := by
  have flags : t.flags = s.flags := by rw [State.flags, State.flags, hsw, hparams]
  have data : DataInv t := ⟨hmem, hsw ▸ hs.sw_low, flags ▸ hs.carry_eq_overflow, flags ▸ hs.zero_excludes⟩
  rcases (atBoundary_iff s).1 hb with ⟨hfetch, hm0⟩ | hhalt
  · exact data.coreInv_of_boundary (hm.trans hm0) (by simp [hM, hfetch])
  · exact data.coreInv_of_boundary (hm.trans (hs.micro_zero (by simp [hhalt]))) (by simp [hM, hhalt])

/-- Settles O54: both write memory words inside the memory, at a cycle boundary. -/
theorem hostWritesKeepTheInvariant : Obligations.HostWritesKeepTheInvariant := by
  intro s t hs
  refine ⟨fun words h => ?load, fun fill h => ?reset⟩
  case load =>
    obtain ⟨hlen, hb, rfl⟩ := loadProgram_eq_next.1 h
    exact coreInv_of_memory_write hs hb (wf_writeAll hs.mem_wf (by omega)) rfl rfl rfl rfl
  case reset =>
    obtain ⟨hb, rfl⟩ := resetMemory_eq_next.1 h
    exact coreInv_of_memory_write hs hb (wf_writeAll hs.mem_wf (by simp)) rfl rfl rfl rfl

/-- Settles O55: what the bulk write from index 0 reads as, and the two refusals. -/
theorem loadProgramWritesFromIndexZero : Obligations.LoadProgramWritesFromIndexZero := by
  intro words s hs
  refine ⟨fun hlen hb => ?accepted, fun hlen => ?tooLong, fun hlen hb => ?inside⟩
  case accepted =>
    have reads (k : Nat) : (s.mem.writeAll 0 words).read k = (words[k]?).getD (s.mem.read k) :=
      (read_writeAll hs (by omega) k).trans (if_pos k.zero_le)
    refine ⟨_, loadProgram_eq_next.2 ⟨hlen, hb, rfl⟩, rfl, fun k w hk => ?_, fun k hk => ?_, fun _ => rfl, rfl,
      ⟨rfl, rfl, rfl, rfl, rfl, rfl, rfl, rfl⟩, rfl, rfl⟩
    · exact (reads k).trans (by rw [hk, Option.getD_some])
    · exact (reads k).trans (by rw [List.getElem?_eq_none hk, Option.getD_none])
  case tooLong => exact if_neg (by simpa using hlen)
  case inside => rw [loadProgram, if_pos (by simpa using hlen), hostWrite, hb]; rfl

/-- Settles O56: the bulk write of 100 words from index 0 covers every index. -/
theorem resetMemoryWritesEveryWord : Obligations.ResetMemoryWritesEveryWord := by
  intro fill s hs hb
  refine ⟨_, resetMemory_eq_next.2 ⟨hb, rfl⟩, fun k => ?_, fun _ => rfl, rfl, rfl,
    ⟨rfl, rfl, rfl, rfl, rfl, rfl, rfl, rfl⟩, rfl, rfl⟩
  rw [State.setMem_mem, read_writeAll hs (by simp), if_pos (Nat.zero_le _)]
  simp

/-! ### Runs -/

theorem run_of_halt {s : State} (h : s.macrostate = .halt) (polls : List Bool) : run polls s = ([], .next s) := by
  cases polls <;> simp [run, halted, h]

theorem runSteps_of_halt {s : State} (h : s.macrostate = .halt) (n : Nat) : runSteps n s = .next s := by
  induction n with
  | zero => rfl
  | succ n ih => rw [runSteps, step_of_halt h, andThen, ih]

/-- Settles O25: the micro-step in Halt is the identity, and a load does not write the sequencer's state. -/
theorem haltIsTerminal : Obligations.HaltIsTerminal := by
  intro s h
  refine ⟨microStep_of_halt h, step_of_halt h, ?record, runSteps_of_halt h, run_of_halt h, fun words t ht => ?load⟩
  case record => simp only [stepRecord, h]
  case load =>
    obtain ⟨-, -, rfl⟩ := loadProgram_eq_next.1 ht
    exact h

/-- A poll that reads true, or Halt, ends the run. -/
theorem run_cons_ends {cancel : Bool} {s : State} (h : cancel = true ∨ s.macrostate = .halt) (polls : List Bool) :
    run (cancel :: polls) s = ([], .next s) :=
  if_pos (by simpa [halted] using h)

section runGoesOn

variable {s : State} (hs : s.macrostate ≠ .halt) (polls : List Bool)

include hs

/-- Otherwise the run takes a step and goes on from the state that it answers. -/
theorem run_cons_next {t : State} (ht : step s = .next t) :
    run (false :: polls) s = (stepRecord s :: (run polls t).1, (run polls t).2) := by
  have ht' : runCycle s = .next t := ht
  simp [run, halted, hs, ht']

/-- A step that stops ends the run. -/
theorem run_cons_stops (ht : ∀ t, step s ≠ .next t) : run (false :: polls) s = ([stepRecord s], step s) := by
  have run_eq : step s = runCycle s := rfl
  rw [run_eq] at ht ⊢
  cases h : runCycle s with
  | next t => exact absurd h (ht t)
  | fault e => simp [run, halted, hs, h]
  | refused e => simp [run, halted, hs, h]

end runGoesOn

theorem andThen_of_not_next {r : Result} (h : ∀ t, r ≠ .next t) (f : State → Result) : andThen r f = r := by
  cases r with
  | next t => exact absurd rfl (h t)
  | fault e => rfl
  | refused e => rfl

theorem runSteps_succ_of_step {s t : State} (h : step s = .next t) (n : Nat) : runSteps (n + 1) s = runSteps n t := by
  rw [runSteps, h, andThen]

/-- Settles O57, by induction on the polls: a run's first step is the first of as many steps as it has records. -/
theorem runIsASequenceOfSteps : Obligations.RunIsASequenceOfSteps := by
  intro polls
  induction polls with
  | nil =>
    rintro s records r ⟨⟩
    exact ⟨fun k hk => absurd hk k.not_lt_zero, rfl, fun _ _ => .inl rfl⟩
  | cons cancel polls ih =>
    intro s records r h
    by_cases hend : cancel = true ∨ s.macrostate = .halt
    · rw [run_cons_ends hend] at h
      cases h
      refine ⟨fun k hk => absurd hk k.not_lt_zero, rfl, ?_⟩
      rintro t ⟨⟩
      exact .inr (hend.imp_left (congrArg some))
    obtain ⟨hcancel, hs⟩ := not_or.1 hend
    obtain rfl : cancel = false := Bool.eq_false_iff.2 hcancel
    by_cases hstep : ∃ t, step s = .next t
    · obtain ⟨t, ht⟩ := hstep
      rw [run_cons_next hs polls ht] at h
      cases h
      obtain ⟨hsteps, hresult, hending⟩ := ih t _ _ rfl
      refine ⟨fun k hk => ?_, (runSteps_succ_of_step ht _).trans hresult,
        fun v hv => (hending v hv).imp_left (congrArg Nat.succ)⟩
      cases k with
      | zero => exact ⟨rfl, s, rfl, hs, rfl⟩
      | succ k =>
        obtain ⟨hpoll, u, hu, hrecord⟩ := hsteps k (Nat.lt_of_succ_lt_succ hk)
        exact ⟨hpoll, u, (runSteps_succ_of_step ht k).trans hu, hrecord⟩
    · have hstop (t : State) : step s ≠ .next t := fun ht => hstep ⟨t, ht⟩
      rw [run_cons_stops hs polls hstop] at h
      cases h
      refine ⟨fun k hk => ?_, andThen_of_not_next hstop _, fun t ht => absurd ht (hstop t)⟩
      obtain rfl : k = 0 := Nat.lt_one_iff.1 hk
      exact ⟨rfl, s, rfl, hs, rfl⟩

/-- Where a run answers a next state, steps lead there. -/
theorem run_reaches {polls : List Bool} {s t : State} {records : List (Option TraceRecord)}
    (h : run polls s = (records, .next t)) : ∃ n, runSteps n s = .next t := by
  obtain ⟨-, hresult, -⟩ := runIsASequenceOfSteps polls s records _ h
  exact ⟨records.length, hresult⟩

/-- What every step keeps, a sequence of steps keeps. -/
theorem runSteps_preserves {P : State → Prop} (hP : ∀ s t, P s → step s = .next t → P t) {n : Nat} {s t : State}
    (hs : P s) (h : runSteps n s = .next t) : P t := by
  induction n generalizing s with
  | zero =>
    obtain rfl : s = t := by injection h
    exact hs
  | succ n ih =>
    obtain ⟨u, hu, hrest⟩ := andThen_eq_next.1 h
    exact ih (hP s u hs hu) hrest

theorem step_params {s t : State} (h : step s = .next t) : t.params = s.params := by
  obtain ⟨-, -, -, hparams⟩ := step_keeps h
  exact hparams

/-- Settles O51: every micro-step keeps the parameters, and the host's writes do not touch them. -/
theorem parametersNeverChange : Obligations.ParametersNeverChange := by
  intro s t
  refine ⟨fun h => ?micro, step_params, fun words h => ?load, fun fill h => ?reset, fun polls records h => ?run⟩
  case micro =>
    obtain ⟨-, -, -, hparams⟩ := microStep_keeps h
    exact hparams
  case load =>
    obtain ⟨-, -, rfl⟩ := loadProgram_eq_next.1 h
    rfl
  case reset =>
    obtain ⟨-, rfl⟩ := resetMemory_eq_next.1 h
    rfl
  case run =>
    obtain ⟨n, hn⟩ := run_reaches h
    exact runSteps_preserves (P := fun u => u.params = s.params) (fun _ _ hu huv => (step_params huv).trans hu) rfl hn

/-! ### Runs that move forward (R240) -/

theorem runSteps_succ_eq_next {n : Nat} {s u : State} (h : runSteps n s = .next u) :
    runSteps (n + 1) s = step u := by
  induction n generalizing s with
  | zero =>
    obtain rfl : s = u := by injection h
    rw [runSteps]
    cases step s <;> rfl
  | succ n ih =>
    obtain ⟨v, hv, hrest⟩ := andThen_eq_next.1 h
    rw [runSteps_succ_of_step hv, ih hrest]

/-- After `n` steps of a run that moves forward only, `n` is a lower bound of PC, unless the machine has halted. -/
theorem forward_runs_climb {s : State} (hs : AtFetch s) (h0 : 0 ≤ s.pc.toInt)
    (forward : ∀ k u v, runSteps k s = .next u → step u = .next v → v.macrostate = .halt ∨ u.pc.toInt < v.pc.toInt)
    (n : Nat) : ∃ u, runSteps n s = .next u ∧ (u.macrostate = .halt ∨ AtFetch u ∧ (n : Int) ≤ u.pc.toInt) := by
  induction n with
  | zero => exact ⟨s, rfl, .inr ⟨hs, h0⟩⟩
  | succ n ih =>
    obtain ⟨u, hu, hcase⟩ := ih
    rw [runSteps_succ_eq_next hu]
    rcases hcase with hhalt | ⟨hfetch, hpc⟩
    · exact ⟨u, step_of_halt hhalt, .inl hhalt⟩
    rcases pc_cases u with hbeyond | hneg | hp
    · exact ⟨_, step_of_pc_exhausted hfetch hbeyond, .inl rfl⟩
    · omega
    · obtain ⟨-, v, -, hv, -⟩ := step_answers hfetch hp
      refine ⟨v, hv, ?_⟩
      rcases (atBoundary_iff v).1 (stepEndsAtCycleBoundary u v hv) with hvfetch | hvhalt
      · exact (forward n u v hu hv).imp_right fun hlt => ⟨hvfetch, by omega⟩
      · exact .inl hvhalt

/-- Settles O59: after 100 steps PC is past the memory, and the last step finds it there. -/
theorem forwardRunsEndWithin101Cycles : Obligations.ForwardRunsEndWithin101Cycles := by
  intro s hs h0 forward
  obtain ⟨u, hu, hcase⟩ := forward_runs_climb hs h0 forward 100
  rw [runSteps_succ_eq_next hu]
  rcases hcase with hhalt | ⟨hfetch, hpc⟩
  · exact ⟨u, step_of_halt hhalt, hhalt⟩
  · exact ⟨_, step_of_pc_exhausted hfetch hpc, rfl⟩

end Sys2Proof.Proofs
end

section
/-! PROOFS. What no run depends on (R26, R28 to R32, D3): a simulation between two states that a program cannot tell
apart. -/

namespace Sys2Proof.Proofs

open Sys2Proof.Machine Sys2Proof.Laws Sys2Proof.Safety

/-- Two results that a program cannot tell apart: both next, to such states, or the same stop. -/
inductive AlikeResults : Result → Result → Prop where
  | next {s t : State} (h : SameForPrograms s t) : AlikeResults (.next s) (.next t)
  | fault (e : Fault) : AlikeResults (.fault e) (.fault e)
  | refused (e : Refusal) : AlikeResults (.refused e) (.refused e)

namespace AlikeResults

variable {r r' : Result}

theorem exists_next (h : AlikeResults r r') {s' : State} (hr : r = .next s') :
    ∃ t', r' = .next t' ∧ SameForPrograms s' t' := by
  subst hr
  cases h with
  | next hst => exact ⟨_, rfl, hst⟩

theorem eq_fault (h : AlikeResults r r') {e : Fault} (hr : r = .fault e) : r' = .fault e := by
  subst hr
  cases h
  rfl

/-- Running on, by a function that keeps alike what `r` can answer, gives alike results. -/
theorem andThen (h : AlikeResults r r') {f : State → Result}
    (hf : ∀ u v, r = .next u → SameForPrograms u v → AlikeResults (f u) (f v)) :
    AlikeResults (Machine.andThen r f) (Machine.andThen r' f) := by
  cases h with
  | next hst => exact hf _ _ rfl hst
  | fault e => exact .fault e
  | refused e => exact .refused e

end AlikeResults

/-! ### The updates keep two states alike -/

section updates

variable {s t : State} (h : SameForPrograms s t)

include h

theorem alike_reg (r : RegIdx) : t.reg r = s.reg r := by rw [State.reg, State.reg, h.regs]

theorem alike_memRead (a : Word) : t.memRead a = s.memRead a := by rw [State.memRead, State.memRead, h.mem]

theorem alike_goto (m : Macrostate) (k : Microstate) : SameForPrograms (s.goto m k) (t.goto m k) :=
  ⟨h.regs, h.mem, h.pc, h.zero, h.opcodes, rfl, rfl⟩

theorem alike_writeReg (dr : RegIdx) (v : Word) : SameForPrograms (s.writeReg dr v) (t.writeReg dr v) :=
  ⟨congrArg (Vector.set · dr v) h.regs, h.mem, h.pc, h.zero, h.opcodes, h.macrostate, h.microstate⟩

theorem alike_setMem (m : Memory) : SameForPrograms (s.setMem m) (t.setMem m) :=
  ⟨h.regs, rfl, h.pc, h.zero, h.opcodes, h.macrostate, h.microstate⟩

theorem alike_setPC (v : Word) : SameForPrograms (s.setPC v) (t.setPC v) :=
  ⟨h.regs, h.mem, rfl, h.zero, h.opcodes, h.macrostate, h.microstate⟩

/-- Z of the wide value is read back wherever it was put (R108, D3). -/
theorem alike_setFlags (x : Int) : SameForPrograms (s.setFlags x) (t.setFlags x) where
  regs := h.regs
  mem := h.mem
  pc := h.pc
  zero := by rw [setFlags_flags, setFlags_flags]
  opcodes := h.opcodes
  macrostate := h.macrostate
  microstate := h.microstate

theorem alike_fetched (w : Word) : SameForPrograms (s.fetched w) (t.fetched w) :=
  ⟨h.regs, h.mem, congrArg (fun pc : Word => truncate32 (pc.toInt + 1)) h.pc, h.zero, h.opcodes, rfl, rfl⟩

/-! ### Every instruction keeps two states alike -/

theorem alike_toFetch : AlikeResults (toFetch s) (toFetch t) := .next (alike_goto h .fetch .m0)

theorem alike_aluResult (dr : RegIdx) (x : Int) : AlikeResults (aluResult s dr x) (aluResult t dr x) :=
  alike_toFetch (alike_writeReg (alike_setFlags h x) dr _)

theorem alike_bitwiseResult (dr : RegIdx) (w : Word) : AlikeResults (bitwiseResult s dr w) (bitwiseResult t dr w) :=
  alike_toFetch (alike_writeReg (alike_setFlags h w.toInt) dr w)

theorem alike_branch (imm : Int) : AlikeResults (branch s imm) (branch t imm) := by
  rw [branch, branch, h.pc]
  exact alike_toFetch (alike_setPC h _)

theorem alike_execLd (dr sr1 : RegIdx) (imm : Int) : AlikeResults (execLd dr sr1 imm s) (execLd dr sr1 imm t) := by
  rw [execLd, execLd, alike_reg h, alike_memRead h]
  cases s.memRead (effectiveAddress (s.reg sr1) imm) with
  | some w => exact alike_toFetch (alike_writeReg h dr w)
  | none => exact alike_toFetch h

theorem alike_execSt (dr sr1 : RegIdx) (imm : Int) : AlikeResults (execSt dr sr1 imm s) (execSt dr sr1 imm t) := by
  rw [execSt, execSt, alike_reg h, alike_reg h]
  cases hin : inBounds (effectiveAddress (s.reg sr1) imm) with
  | true =>
    rw [memWrite_eq_some.2 ⟨hin, rfl⟩, memWrite_eq_some.2 ⟨hin, rfl⟩, h.mem]
    exact alike_toFetch (alike_setMem h _)
  | false =>
    rw [memWrite_eq_none.2 hin, memWrite_eq_none.2 hin]
    exact alike_toFetch h

theorem alike_execBrz (imm : Int) : AlikeResults (execBrz imm s) (execBrz imm t) := by
  rw [execBrz, execBrz, h.zero]
  split
  · exact alike_branch h imm
  · exact alike_toFetch h

theorem alike_exec (i : Instr) : AlikeResults (exec i s) (exec i t) := by
  cases i using instr_cases with
  | nop i hnop =>
    rw [exec_of_noOperation hnop, exec_of_noOperation hnop]
    exact alike_toFetch h
  | ldi dr imm => exact alike_toFetch (alike_writeReg h dr _)
  | ld dr sr1 imm => exact alike_execLd h dr sr1 imm
  | st dr sr1 imm => exact alike_execSt h dr sr1 imm
  | add dr sr1 sr2 =>
    rw [exec_add, exec_add, alike_reg h, alike_reg h]
    exact alike_aluResult h dr _
  | sub dr sr1 sr2 =>
    rw [exec_sub, exec_sub, aluResult_setSW, aluResult_setSW, alike_reg h, alike_reg h]
    exact alike_aluResult h dr _
  | and dr sr1 sr2 =>
    rw [exec_and, exec_and, alike_reg h, alike_reg h]
    exact alike_bitwiseResult h dr _
  | or dr sr1 sr2 =>
    rw [exec_or, exec_or, alike_reg h, alike_reg h]
    exact alike_bitwiseResult h dr _
  | not dr sr1 =>
    rw [exec_not, exec_not, alike_reg h]
    exact alike_bitwiseResult h dr _
  | br imm => exact alike_branch h imm
  | brz imm => exact alike_execBrz h imm
  | halt => exact .next (alike_goto h .halt .m0)

/-! ### Every step and every run keeps two states alike -/

theorem alike_step (hb : s.atBoundary = true) : AlikeResults (step s) (step t) := by
  rcases (atBoundary_iff s).1 hb with hs | hs
  case inr =>
    rw [step_of_halt hs, step_of_halt (h.macrostate.trans hs)]
    exact .next h
  case inl =>
    have ht : AtFetch t := ⟨h.macrostate.trans hs.1, h.microstate.trans hs.2⟩
    rcases pc_cases s with hpc | hpc | hpc
    · rw [step_of_pc_exhausted hs hpc, step_of_pc_exhausted ht (h.pc.symm ▸ hpc)]
      exact .next ⟨h.regs, h.mem, h.pc, h.zero, h.opcodes, rfl, h.microstate⟩
    · rw [step_of_negative hs hpc, step_of_negative ht (h.pc.symm ▸ hpc)]
      exact .fault _
    · have htpc : PCInMemory t := by rwa [PCInMemory, h.pc]
      obtain ⟨i, hi⟩ := exists_decode s.params.opcodes (s.mem.read s.pc.toNat)
      have word : t.mem.read t.pc.toNat = s.mem.read s.pc.toNat := by rw [h.mem, h.pc]
      rw [step_eq_exec hs hpc hi, step_eq_exec_of_read ht htpc word (h.opcodes.symm ▸ hi)]
      exact alike_exec (alike_fetched h _) i

end updates

theorem alike_runSteps (n : Nat) {s t : State} (hb : s.atBoundary = true) (h : SameForPrograms s t) :
    AlikeResults (runSteps n s) (runSteps n t) := by
  induction n generalizing s t with
  | zero => exact .next h
  | succ n ih => exact (alike_step h hb).andThen fun u _ hu huv => ih (stepEndsAtCycleBoundary s u hu) huv

/-- Settles O58: the runs stay alike, so they answer alike states or the same fault. -/
theorem unreadStateNeverMatters : Obligations.UnreadStateNeverMatters := fun n _ _ hb h =>
  ⟨fun _ hnext => (alike_runSteps n hb h).exists_next hnext, fun _ hfault => (alike_runSteps n hb h).eq_fault hfault⟩

end Sys2Proof.Proofs
end
